-- ==== Sys2Proof/Word.lean ====
section
/-! DEFINITION. The widths of this hardware (spec/00_scope.md R8, R9): all values are unsigned; a narrowing is written
where it happens. -/

namespace Sys2Proof

/-- `u8`: a register, a timer, a memory cell. -/
abbrev Byte := BitVec 8

/-- `u16`: an instruction word, `pc`, `I`, a stack entry. -/
abbrev Word := BitVec 16

/-- `u4`: a register number (X, Y), a row count (N), a key code. -/
abbrev Nibble := BitVec 4

/-- `u12`: the field NNN. -/
abbrev Addr := BitVec 12

end Sys2Proof
end

