-- ==== Sys2Proof/Syntax.lean ====
section
/-! DEFINITION. The 34 instructions of spec/opcode_table.json (spec/30_encoding.md R84), one constructor a row, in the
table's order. Each operand has the width of its field (R71), so every operand value is one the encoding admits. -/

namespace Sys2Proof

/-- One constructor per row of the opcode table. `x`, `y` are register numbers, `n`, `nn`, `nnn` unsigned immediates
(R72). The two register skips keep the field `n`, which their decoding does not examine (R75), so that no bit of a word
is dropped. `jumpOffset` keeps both fields its row has: `nnn`, and `x`, which overlaps the top nibble of `nnn`. -/
inductive Instr where
  | clear
  | ret
  | jump (nnn : Addr)
  | call (nnn : Addr)
  | skipEqImm (x : Nibble) (nn : Byte)
  | skipNeqImm (x : Nibble) (nn : Byte)
  | skipEqReg (x y n : Nibble)
  | loadImm (x : Nibble) (nn : Byte)
  | addImm (x : Nibble) (nn : Byte)
  | copy (x y : Nibble)
  | or (x y : Nibble)
  | and (x y : Nibble)
  | xor (x y : Nibble)
  | add (x y : Nibble)
  | sub (x y : Nibble)
  | shr (x y : Nibble)
  | subn (x y : Nibble)
  | shl (x y : Nibble)
  | skipNeqReg (x y n : Nibble)
  | setIndex (nnn : Addr)
  | jumpOffset (nnn : Addr) (x : Nibble)
  | random (x : Nibble) (nn : Byte)
  | draw (x y n : Nibble)
  | keyPressed (x : Nibble)
  | keyNotPressed (x : Nibble)
  | getDelay (x : Nibble)
  | waitKey (x : Nibble)
  | setDelay (x : Nibble)
  | setSound (x : Nibble)
  | addIndex (x : Nibble)
  | spriteAddr (x : Nibble)
  | storeBcd (x : Nibble)
  | regDump (x : Nibble)
  | regLoad (x : Nibble)
deriving DecidableEq, Repr

end Sys2Proof
end

