-- ==== Sys2Proof/WellFormed.lean ====
section
/-! DEFINITION. Which instructions have a word. Operand ranges hold by type (spec/30_encoding.md R71); the one relation
left to check is between the two overlapping fields of JUMP_OFFSET (R72: "the field `X` is used twice: as the register
number and as the top nibble of `NNN`"). -/

namespace Sys2Proof

/-- The check of each instruction, all constructors named. -/
def Instr.wellFormed : Instr → Bool
  | .clear => true
  | .ret => true
  | .jump _ => true
  | .call _ => true
  | .skipEqImm _ _ => true
  | .skipNeqImm _ _ => true
  | .skipEqReg _ _ _ => true
  | .loadImm _ _ => true
  | .addImm _ _ => true
  | .copy _ _ => true
  | .or _ _ => true
  | .and _ _ => true
  | .xor _ _ => true
  | .add _ _ => true
  | .sub _ _ => true
  | .shr _ _ => true
  | .subn _ _ => true
  | .shl _ _ => true
  | .skipNeqReg _ _ _ => true
  | .setIndex _ => true
  | .jumpOffset nnn x => x == nnn.extractLsb' 8 4
  | .random _ _ => true
  | .draw _ _ _ => true
  | .keyPressed _ => true
  | .keyNotPressed _ => true
  | .getDelay _ => true
  | .waitKey _ => true
  | .setDelay _ => true
  | .setSound _ => true
  | .addIndex _ => true
  | .spriteAddr _ => true
  | .storeBcd _ => true
  | .regDump _ => true
  | .regLoad _ => true

/-- An instruction that some word encodes. -/
abbrev Instr.WellFormed (i : Instr) : Prop := i.wellFormed = true

end Sys2Proof
end

