-- ==== Sys2Proof/Decode.lean ====
section
/-! DEFINITION. The instruction codec of spec/30_encoding.md: the fields of a word (R71), the decoder (R73), the opcode
table (R84), and the encoder. No decoding depends on state (R81). -/

namespace Sys2Proof

/-! ## Fields (R71) -/

/-- `OP`, bits 15..12. -/
def fieldOp (w : Word) : Nibble := w.extractLsb' 12 4
/-- `X`, bits 11..8. -/
def fieldX (w : Word) : Nibble := w.extractLsb' 8 4
/-- `Y`, bits 7..4. -/
def fieldY (w : Word) : Nibble := w.extractLsb' 4 4
/-- `N`, bits 3..0. -/
def fieldN (w : Word) : Nibble := w.extractLsb' 0 4
/-- `NN`, bits 7..0. -/
def fieldNN (w : Word) : Byte := w.extractLsb' 0 8
/-- `NNN`, bits 11..0. -/
def fieldNNN (w : Word) : Addr := w.extractLsb' 0 12

/-! ## The decoder (R73) -/

/-- Why there is no instruction. -/
inductive Reject where
  /-- R79: the word selects no row of the table. It executes as a no-operation (R103). -/
  | unmapped (w : Word)
  /-- Fewer than two bytes were given: no instruction word. -/
  | truncated
deriving DecidableEq, Repr

/-- Family 8 dispatches on `N` (R76). -/
def decodeAlu (w : Word) : Except Reject Instr :=
  match (fieldN w).toNat with
  | 0x0 => .ok (.copy (fieldX w) (fieldY w))
  | 0x1 => .ok (.or (fieldX w) (fieldY w))
  | 0x2 => .ok (.and (fieldX w) (fieldY w))
  | 0x3 => .ok (.xor (fieldX w) (fieldY w))
  | 0x4 => .ok (.add (fieldX w) (fieldY w))
  | 0x5 => .ok (.sub (fieldX w) (fieldY w))
  | 0x6 => .ok (.shr (fieldX w) (fieldY w))
  | 0x7 => .ok (.subn (fieldX w) (fieldY w))
  | 0xE => .ok (.shl (fieldX w) (fieldY w))
  | _ => .error (.unmapped w)

/-- Family E dispatches on the whole low byte (R77). -/
def decodeKey (w : Word) : Except Reject Instr :=
  match (fieldNN w).toNat with
  | 0x9E => .ok (.keyPressed (fieldX w))
  | 0xA1 => .ok (.keyNotPressed (fieldX w))
  | _ => .error (.unmapped w)

/-- Family F dispatches on the whole low byte (R78). -/
def decodeMisc (w : Word) : Except Reject Instr :=
  match (fieldNN w).toNat with
  | 0x07 => .ok (.getDelay (fieldX w))
  | 0x0A => .ok (.waitKey (fieldX w))
  | 0x15 => .ok (.setDelay (fieldX w))
  | 0x18 => .ok (.setSound (fieldX w))
  | 0x1E => .ok (.addIndex (fieldX w))
  | 0x29 => .ok (.spriteAddr (fieldX w))
  | 0x33 => .ok (.storeBcd (fieldX w))
  | 0x55 => .ok (.regDump (fieldX w))
  | 0x65 => .ok (.regLoad (fieldX w))
  | _ => .error (.unmapped w)

/-- Family 0 matches whole words (R74). -/
def decodeZero (w : Word) : Except Reject Instr :=
  if w = 0x00E0#16 then .ok .clear
  else if w = 0x00EE#16 then .ok .ret
  else .error (.unmapped w)

/-- The decode procedure of R73, total on all 65536 words. -/
def decode (w : Word) : Except Reject Instr :=
  match (fieldOp w).toNat with
  | 0x0 => decodeZero w
  | 0x1 => .ok (.jump (fieldNNN w))
  | 0x2 => .ok (.call (fieldNNN w))
  | 0x3 => .ok (.skipEqImm (fieldX w) (fieldNN w))
  | 0x4 => .ok (.skipNeqImm (fieldX w) (fieldNN w))
  | 0x5 => .ok (.skipEqReg (fieldX w) (fieldY w) (fieldN w))
  | 0x6 => .ok (.loadImm (fieldX w) (fieldNN w))
  | 0x7 => .ok (.addImm (fieldX w) (fieldNN w))
  | 0x8 => decodeAlu w
  | 0x9 => .ok (.skipNeqReg (fieldX w) (fieldY w) (fieldN w))
  | 0xA => .ok (.setIndex (fieldNNN w))
  | 0xB => .ok (.jumpOffset (fieldNNN w) (fieldX w))
  | 0xC => .ok (.random (fieldX w) (fieldNN w))
  | 0xD => .ok (.draw (fieldX w) (fieldY w) (fieldN w))
  | 0xE => decodeKey w
  | _ => decodeMisc w

/-- A word from the two bytes that hold it, big-endian (R70; spec/20_memory.md R54). -/
def wordOfBytes (hi lo : Byte) : Word := hi ++ lo

/-- The decoder on bytes, total: the instruction at the front and the bytes after it. -/
def decodeBytes : List Byte → Except Reject (Instr × List Byte)
  | hi :: lo :: rest => (decode (wordOfBytes hi lo)).map fun i => (i, rest)
  | _ => .error .truncated

/-! ## The encoder -/

/-- A word from `OP`, `X`, `Y`, `N` (R71). -/
def packXYN (op x y n : Nibble) : Word := (op ++ x) ++ (y ++ n)
/-- A word from `OP`, `X`, `NN` (R71). -/
def packXNN (op x : Nibble) (nn : Byte) : Word := (op ++ x) ++ nn
/-- A word from `OP`, `NNN` (R71). -/
def packNNN (op : Nibble) (nnn : Addr) : Word := op ++ nnn

/-- The word of an instruction, from the patterns of R84. -/
def encode : Instr → Word
  | .clear => 0x00E0#16
  | .ret => 0x00EE#16
  | .jump nnn => packNNN 0x1#4 nnn
  | .call nnn => packNNN 0x2#4 nnn
  | .skipEqImm x nn => packXNN 0x3#4 x nn
  | .skipNeqImm x nn => packXNN 0x4#4 x nn
  | .skipEqReg x y n => packXYN 0x5#4 x y n
  | .loadImm x nn => packXNN 0x6#4 x nn
  | .addImm x nn => packXNN 0x7#4 x nn
  | .copy x y => packXYN 0x8#4 x y 0x0#4
  | .or x y => packXYN 0x8#4 x y 0x1#4
  | .and x y => packXYN 0x8#4 x y 0x2#4
  | .xor x y => packXYN 0x8#4 x y 0x3#4
  | .add x y => packXYN 0x8#4 x y 0x4#4
  | .sub x y => packXYN 0x8#4 x y 0x5#4
  | .shr x y => packXYN 0x8#4 x y 0x6#4
  | .subn x y => packXYN 0x8#4 x y 0x7#4
  | .shl x y => packXYN 0x8#4 x y 0xE#4
  | .skipNeqReg x y n => packXYN 0x9#4 x y n
  | .setIndex nnn => packNNN 0xA#4 nnn
  | .jumpOffset nnn _ => packNNN 0xB#4 nnn
  | .random x nn => packXNN 0xC#4 x nn
  | .draw x y n => packXYN 0xD#4 x y n
  | .keyPressed x => packXNN 0xE#4 x 0x9E#8
  | .keyNotPressed x => packXNN 0xE#4 x 0xA1#8
  | .getDelay x => packXNN 0xF#4 x 0x07#8
  | .waitKey x => packXNN 0xF#4 x 0x0A#8
  | .setDelay x => packXNN 0xF#4 x 0x15#8
  | .setSound x => packXNN 0xF#4 x 0x18#8
  | .addIndex x => packXNN 0xF#4 x 0x1E#8
  | .spriteAddr x => packXNN 0xF#4 x 0x29#8
  | .storeBcd x => packXNN 0xF#4 x 0x33#8
  | .regDump x => packXNN 0xF#4 x 0x55#8
  | .regLoad x => packXNN 0xF#4 x 0x65#8

/-- The first (lower-addressed) byte of a word: `OP * 16 + X` (R71). -/
def highByte (w : Word) : Byte := w.extractLsb' 8 8

/-- The second byte of a word: `NN` (R71). -/
def lowByte (w : Word) : Byte := w.extractLsb' 0 8

/-- The two bytes of an instruction as memory holds them. -/
def encodeBytes (i : Instr) : List Byte := [highByte (encode i), lowByte (encode i)]

/-! ## The opcode table (R84) -/

/-- One row: a word `w` selects it when `w & mask = bits`. -/
structure Row where
  mnemonic : String
  mask : Word
  bits : Word
deriving DecidableEq, Repr

/-- `w & mask = match` (R84). -/
def Row.selects (r : Row) (w : Word) : Bool := w &&& r.mask == r.bits

/-- Rows 1 to 9 and 19 to 23 of R84: the whole-word and first-nibble families. -/
def rowsByNibble : List Row :=
  [⟨"CLEAR", 0xFFFF, 0x00E0⟩, ⟨"RETURN", 0xFFFF, 0x00EE⟩, ⟨"JUMP", 0xF000, 0x1000⟩, ⟨"CALL", 0xF000, 0x2000⟩] ++
  [⟨"SKIPEQ_IMM", 0xF000, 0x3000⟩, ⟨"SKIPNEQ_IMM", 0xF000, 0x4000⟩, ⟨"SKIPEQ_REG", 0xF000, 0x5000⟩] ++
  [⟨"LOAD_IMM", 0xF000, 0x6000⟩, ⟨"ADD_IMM", 0xF000, 0x7000⟩, ⟨"SKIPNEQ_REG", 0xF000, 0x9000⟩] ++
  [⟨"SET_INDEX", 0xF000, 0xA000⟩, ⟨"JUMP_OFFSET", 0xF000, 0xB000⟩, ⟨"RANDOM", 0xF000, 0xC000⟩,
   ⟨"DRAW", 0xF000, 0xD000⟩]

/-- Rows 10 to 18 of R84: family 8. -/
def rowsOfFamily8 : List Row :=
  [⟨"COPY", 0xF00F, 0x8000⟩, ⟨"OR", 0xF00F, 0x8001⟩, ⟨"AND", 0xF00F, 0x8002⟩, ⟨"XOR", 0xF00F, 0x8003⟩] ++
  [⟨"ADD", 0xF00F, 0x8004⟩, ⟨"SUB", 0xF00F, 0x8005⟩, ⟨"SHR", 0xF00F, 0x8006⟩, ⟨"SUBN", 0xF00F, 0x8007⟩,
   ⟨"SHL", 0xF00F, 0x800E⟩]

/-- Rows 24 to 34 of R84: families E and F. -/
def rowsOfFamiliesEF : List Row :=
  [⟨"KEY_PRESSED", 0xF0FF, 0xE09E⟩, ⟨"KEY_NOT_PRESSED", 0xF0FF, 0xE0A1⟩, ⟨"GET_DELAY", 0xF0FF, 0xF007⟩,
   ⟨"WAIT_KEY", 0xF0FF, 0xF00A⟩] ++
  [⟨"SET_DELAY", 0xF0FF, 0xF015⟩, ⟨"SET_SOUND", 0xF0FF, 0xF018⟩, ⟨"ADD_INDEX", 0xF0FF, 0xF01E⟩,
   ⟨"SPRITE_ADDR", 0xF0FF, 0xF029⟩] ++
  [⟨"STORE_BCD", 0xF0FF, 0xF033⟩, ⟨"REG_DUMP", 0xF0FF, 0xF055⟩, ⟨"REG_LOAD", 0xF0FF, 0xF065⟩]

/-- The complete table of R84, 34 rows. -/
def opcodeTable : List Row := rowsByNibble ++ rowsOfFamily8 ++ rowsOfFamiliesEF

/-- The mnemonic of an instruction's row (R84). -/
def Instr.mnemonic : Instr → String
  | .clear => "CLEAR"
  | .ret => "RETURN"
  | .jump _ => "JUMP"
  | .call _ => "CALL"
  | .skipEqImm _ _ => "SKIPEQ_IMM"
  | .skipNeqImm _ _ => "SKIPNEQ_IMM"
  | .skipEqReg _ _ _ => "SKIPEQ_REG"
  | .loadImm _ _ => "LOAD_IMM"
  | .addImm _ _ => "ADD_IMM"
  | .copy _ _ => "COPY"
  | .or _ _ => "OR"
  | .and _ _ => "AND"
  | .xor _ _ => "XOR"
  | .add _ _ => "ADD"
  | .sub _ _ => "SUB"
  | .shr _ _ => "SHR"
  | .subn _ _ => "SUBN"
  | .shl _ _ => "SHL"
  | .skipNeqReg _ _ _ => "SKIPNEQ_REG"
  | .setIndex _ => "SET_INDEX"
  | .jumpOffset _ _ => "JUMP_OFFSET"
  | .random _ _ => "RANDOM"
  | .draw _ _ _ => "DRAW"
  | .keyPressed _ => "KEY_PRESSED"
  | .keyNotPressed _ => "KEY_NOT_PRESSED"
  | .getDelay _ => "GET_DELAY"
  | .waitKey _ => "WAIT_KEY"
  | .setDelay _ => "SET_DELAY"
  | .setSound _ => "SET_SOUND"
  | .addIndex _ => "ADD_INDEX"
  | .spriteAddr _ => "SPRITE_ADDR"
  | .storeBcd _ => "STORE_BCD"
  | .regDump _ => "REG_DUMP"
  | .regLoad _ => "REG_LOAD"

/-! ## The spelling of an instruction (R82, R83)

A text for a reader; "the syntax carries no semantics: the model works on words". -/

/-- One hexadecimal digit, upper case. -/
def hexDigit (d : Nibble) : String :=
  ["0", "1", "2", "3", "4", "5", "6", "7", "8", "9", "A", "B", "C", "D", "E", "F"].getD d.toNat ""

/-- `V0` .. `VF`. -/
def spellReg (x : Nibble) : String := "V" ++ hexDigit x

/-- `0xNN`. -/
def spellByte (b : Byte) : String := "0x" ++ hexDigit (b.extractLsb' 4 4) ++ hexDigit (b.extractLsb' 0 4)

/-- `0xNNN`. -/
def spellAddr (a : Addr) : String :=
  "0x" ++ hexDigit (a.extractLsb' 8 4) ++ hexDigit (a.extractLsb' 4 4) ++ hexDigit (a.extractLsb' 0 4)

/-- The row count of DRAW, decimal. -/
def spellCount (n : Nibble) : String :=
  ["0", "1", "2", "3", "4", "5", "6", "7", "8", "9", "10", "11", "12", "13", "14", "15"].getD n.toNat ""

/-- The operands, destination first (R82). R82's mnemonic form of 5XYN and 9XYN encodes N = 0, and the spec gives no form
for another N: the model drops N, so `0x512F` is spelled as `0x5120` is (DESIGN CHOICE, log entry 24). -/
def Instr.spellOperands : Instr → List String
  | .clear => []
  | .ret => []
  | .jump nnn => [spellAddr nnn]
  | .call nnn => [spellAddr nnn]
  | .skipEqImm x nn => [spellReg x, spellByte nn]
  | .skipNeqImm x nn => [spellReg x, spellByte nn]
  | .skipEqReg x y _ => [spellReg x, spellReg y]
  | .loadImm x nn => [spellReg x, spellByte nn]
  | .addImm x nn => [spellReg x, spellByte nn]
  | .copy x y => [spellReg x, spellReg y]
  | .or x y => [spellReg x, spellReg y]
  | .and x y => [spellReg x, spellReg y]
  | .xor x y => [spellReg x, spellReg y]
  | .add x y => [spellReg x, spellReg y]
  | .sub x y => [spellReg x, spellReg y]
  | .shr x y => [spellReg x, spellReg y]
  | .subn x y => [spellReg x, spellReg y]
  | .shl x y => [spellReg x, spellReg y]
  | .skipNeqReg x y _ => [spellReg x, spellReg y]
  | .setIndex nnn => [spellAddr nnn]
  | .jumpOffset nnn _ => [spellAddr nnn]
  | .random x nn => [spellReg x, spellByte nn]
  | .draw x y n => [spellReg x, spellReg y, spellCount n]
  | .keyPressed x => [spellReg x]
  | .keyNotPressed x => [spellReg x]
  | .getDelay x => [spellReg x]
  | .waitKey x => [spellReg x]
  | .setDelay x => [spellReg x]
  | .setSound x => [spellReg x]
  | .addIndex x => [spellReg x]
  | .spriteAddr x => [spellReg x]
  | .storeBcd x => [spellReg x]
  | .regDump x => [spellReg x]
  | .regLoad x => [spellReg x]

/-- The mnemonic and the operands, separated by commas. -/
def Instr.spell (i : Instr) : String :=
  match i.spellOperands with
  | [] => i.mnemonic
  | o :: os => os.foldl (fun text o => text ++ ", " ++ o) (i.mnemonic ++ " " ++ o)

/-- A word in a listing: its instruction, or `.word 0xNNNN` where it has none (R83). -/
def spellWord (w : Word) : String :=
  match decode w with
  | .ok i => i.spell
  | .error _ => ".word 0x" ++ hexDigit (fieldOp w) ++ hexDigit (fieldX w) ++ hexDigit (fieldY w) ++ hexDigit (fieldN w)

/-! ## What the host asks -/

/-- The first word of an instruction whose bits the table gives as the number `w`, the bits above `nbits` being 0. Every
instruction is one word (R70), so bit `k` of the number is bit `k` of the word. -/
def tableWord (nbits w : Nat) : Word := BitVec.ofNat 16 (w % 2 ^ nbits)

/-- The instruction this decoder reads from a table word laid out in memory order. -/
def decodeTableWord (nbits w : Nat) : Option Instr :=
  match decodeBytes [highByte (tableWord nbits w), lowByte (tableWord nbits w)] with
  | .ok (i, _) => some i
  | .error _ => none

end Sys2Proof
end

