-- ==== Sys2Proof/Config.lean ====
section
/-! DEFINITION. What is fixed when the machine is built (spec/00_scope.md R5, R7; spec/10_state.md R30), and the one
free value, the random byte (spec/60_exceptions.md R235). -/

namespace Sys2Proof

/-- The construction parameters the state holds. `State.cfg` is one, so a statement about every state holds for every
value of each. RATE_HZ is held beside it (`State.rateHz`). -/
structure Config where
  /-- `cfg.SHIFT_USES_Y` (R5): 8XY6 and 8XYE shift `V[Y]`. -/
  shiftUsesY : Bool
  /-- `cfg.JUMP_USES_V0` (R5): BNNN adds `V[0]`, not `V[X]`. -/
  jumpUsesV0 : Bool
  /-- `PC_RESET` (R7). -/
  pcReset : Word
  /-- `FONT` (R7, R66): the reset contents of `0x000..0x04F`. -/
  font : Vector Byte 80
  /-- `STACK_DEPTH` (R7). -/
  stackDepth : Nat
deriving DecidableEq, Repr

/-- PRESUMED (log entry 4): the conventional glyphs 0 to 7, the spec's default for `FONT` (spec/20_memory.md R66, marked
there as general knowledge). -/
def Config.glyphs0to7 : List Byte :=
  [0xF0, 0x90, 0x90, 0x90, 0xF0] ++ [0x20, 0x60, 0x20, 0x20, 0x70] ++
  [0xF0, 0x10, 0xF0, 0x80, 0xF0] ++ [0xF0, 0x10, 0xF0, 0x10, 0xF0] ++
  [0x90, 0x90, 0xF0, 0x10, 0x10] ++ [0xF0, 0x80, 0xF0, 0x10, 0xF0] ++
  [0xF0, 0x80, 0xF0, 0x90, 0xF0] ++ [0xF0, 0x10, 0x20, 0x40, 0x40]

/-- PRESUMED (log entry 4): the conventional glyphs 8 to F. -/
def Config.glyphs8toF : List Byte :=
  [0xF0, 0x90, 0xF0, 0x90, 0xF0] ++ [0xF0, 0x90, 0xF0, 0x10, 0xF0] ++
  [0xF0, 0x90, 0xF0, 0x90, 0x90] ++ [0xE0, 0x90, 0xE0, 0x90, 0xE0] ++
  [0xF0, 0x80, 0x80, 0x80, 0xF0] ++ [0xE0, 0x90, 0x90, 0x90, 0xE0] ++
  [0xF0, 0x80, 0xF0, 0x80, 0xF0] ++ [0xF0, 0x80, 0xF0, 0x80, 0x80]

/-- The default `FONT` (R66). -/
def Config.defaultFont : Vector Byte 80 :=
  ⟨⟨Config.glyphs0to7 ++ Config.glyphs8toF⟩, by decide⟩

/-- The configuration of `State.reset`: `PC_RESET`, `FONT` and `STACK_DEPTH` at the spec's defaults (R7; log entries 3,
4, 5), the two dialect flags, for which the spec gives no default, as its test vectors take them (DESIGN CHOICE, log
entry 1). -/
def Config.default : Config where
  shiftUsesY := false
  jumpUsesV0 := true
  pcReset := 0x0000
  font := Config.defaultFont
  stackDepth := 16

/-- FREE VALUE (R132, R235: "fresh for each executed CXNN, under no law"; log entry 8): the byte of the `k`-th draw. It
has no body, so nothing can be proved of its value. -/
opaque Config.randomByte (k : Nat) : Byte

end Sys2Proof
end

