-- ==== Sys2Proof/Machine/State.lean ====
section
/-! DEFINITION. The state of the core (spec/10_state.md), its outputs, the transitions of its agents
(spec/60_exceptions.md R234), the reasons a transition can stop, and the state after reset (R36). -/

namespace Sys2Proof.Machine

/-- `ERR`, the error latch (spec/10_state.md R32; spec/60_exceptions.md R210). -/
inductive ErrorCode where
  | none
  | emptyStack
  | stackOverflow
  | fetchBounds
deriving DecidableEq, Repr

/-- The codes of R210. -/
def ErrorCode.code : ErrorCode → Nat
  | .none => 0
  | .emptyStack => 1
  | .stackOverflow => 2
  | .fetchBounds => 3

/-- A warning with its payload (spec/60_exceptions.md R214). -/
inductive Warning where
  /-- FX33: `I`. -/
  | bcdBounds (i : Word)
  /-- FX55: `I`, `X`. -/
  | dumpBounds (i : Word) (x : Nibble)
  /-- FX65: `I`, `X`. -/
  | loadBounds (i : Word) (x : Nibble)
  /-- DXYN: `I`, `N`. -/
  | drawBounds (i : Word) (n : Nibble)
deriving DecidableEq, Repr

/-- The codes of R214. -/
def Warning.code : Warning → Nat
  | .bcdBounds _ => 1
  | .dumpBounds _ _ => 2
  | .loadBounds _ _ => 3
  | .drawBounds _ _ => 4

/-- `Disp[row][column]`, 32 rows of 64 one-bit cells (spec/10_state.md R27). -/
abbrev Display := Vector (Vector Bool 64) 32

/-- All 2048 cells 0. -/
def Display.blank : Display := Vector.replicate 32 (Vector.replicate 64 false)

/-- `Mem` (R33; spec/20_memory.md R50): the cells that differ from their reset contents, addresses rising. What an
unlisted address reads as is `resetByte` (Machine/Ops.lean). -/
abbrev Memory := List Host.Cell

/-- The transitions of the agents, one for each operation of R234. The random byte is no transition: it is an input of
the step that draws it (R235). -/
inductive Transition where
  /-- The execution agent: `Step()`. -/
  | step
  /-- The timer agent: `Tick()`. -/
  | tick
  /-- The host: `KeyUpdate(key, pressed)`. -/
  | keyUpdate (key : Nibble) (pressed : Bool)
  /-- The host: `ConsumeFrame()`. -/
  | consumeFrame
  /-- The host: `LoadRom(bytes)`. -/
  | loadRom (bytes : List Byte)
  /-- The host: `Initialize()`. -/
  | initializeTimers
  /-- The host: `Reset(shift_uses_y, jump_uses_v0, rate)`. -/
  | reset (shiftUsesY jumpUsesV0 : Bool) (rate : Int)
  /-- The host: `QueryRedraw()`. -/
  | queryRedraw
  /-- The host: `QueryPC()`. -/
  | queryPC
  /-- The host: `QueryRate()`. -/
  | queryRate
  /-- The host: `QueryErr()`. -/
  | queryErr
deriving DecidableEq, Repr

/-- What a transition returns or emits (R234). -/
inductive Output where
  /-- `raise` (R210), with the `pc` from which the host learns the place (log entry 18). -/
  | error (e : ErrorCode) (pc : Word)
  /-- `warn` (R214). -/
  | warning (w : Warning)
  /-- A tick's beep (R224). -/
  | beep (on : Bool)
  /-- A consumed frame (R228). -/
  | frame (d : Display)
  /-- The answers to the four queries (R229). -/
  | redraw (pending : Bool)
  | counter (pc : Word)
  | rate (hz : Int)
  | latch (e : ErrorCode)
deriving DecidableEq, Repr

/-- The state of one core. The last three fields are the model's own (INVENTORY.md, State). -/
structure State where
  /-- `V[0]..V[15]`; `V[15]` is VF (R20, R21). -/
  v : Vector Byte 16
  /-- The index register, never masked to 12 bits (R22). -/
  i : Word
  /-- The program counter (R23). -/
  pc : Word
  /-- The call stack, newest last; `SP` is its length (R24). -/
  stack : List Word
  /-- The delay timer (R25). -/
  dt : Byte
  /-- The sound timer (R26). -/
  st : Byte
  /-- The display (R27). -/
  disp : Display
  /-- `REDRAW` (R28). -/
  redraw : Bool
  /-- The key latches, true = pressed (R29). -/
  key : Vector Bool 16
  /-- `ERR` (R32). -/
  err : ErrorCode
  /-- `Mem` (R33). -/
  mem : Memory
  /-- The dialect flags (R30) and the construction parameters of R7. -/
  cfg : Config
  /-- `RATE_HZ` (R31). -/
  rateHz : Int
  /-- `Initialize` has been performed since reset (spec/70_reset_and_hazards.md R250, R251). -/
  timersRunning : Bool
  /-- A `Step` has been performed since reset (spec/20_memory.md R64; log entry 17). -/
  started : Bool
  /-- The beep output level, the last tick's value (spec/60_exceptions.md R224; log entry 13). -/
  beep : Bool
  /-- MODEL's own (log entry 6): the transitions performed next, oldest first; where it is empty, a `Step`. -/
  agenda : List Transition
  /-- MODEL's own (log entry 7): the outputs so far, newest first. Nothing reads it. -/
  history : List Output
  /-- MODEL's own (log entry 8): how many random bytes have been drawn. -/
  draws : Nat
deriving DecidableEq, Repr

/-- The reasons a step can fault: there are none. The machine's errors are states of it (`ERR` latched, the core halted,
spec/60_exceptions.md R210, R219), every memory access is bounds-tested (spec/20_memory.md R57), and no operation fails
otherwise (R215). Safe: nothing is hidden behind a fault (log entry 12). -/
inductive Fault where
deriving DecidableEq, Repr

/-- The reasons a step is refused. Only a host transition that the spec gives no meaning is. -/
inductive Refusal where
  /-- Raised by no arm of `exec` today: an instruction without a meaning would answer it. Safe. -/
  | notModelled (mnemonic : String)
  /-- A `tick` on a core whose timers were not started: "before it, none do" (spec/70_reset_and_hazards.md R251; log
  entry 9). Safe: no run of the hardware holds it. -/
  | tickBeforeInitialize
  /-- A second `initializeTimers` without a reset between: "a model gives it no meaning" (R251, U8; log entry 10). Safe. -/
  | initializeTwice
  /-- A `loadRom` after the first step: "a model gives such a load no meaning" (spec/20_memory.md R64, U9; log entry 11).
  Safe. -/
  | loadRomAfterStep
deriving DecidableEq, Repr

/-- `RATE_HZ` for a supplied rate (spec/00_scope.md R6). -/
def heldRate (rate : Int) : Int := if rate ≤ 0 then 700 else rate

/-- A core just constructed (R36, R250) with configuration `c` and supplied rate `rate`, nothing on its agenda and
nothing in its history. -/
def State.construct (c : Config) (rate : Int) : State where
  v := Vector.replicate 16 0x00
  i := 0x0000
  pc := c.pcReset
  stack := []
  dt := 0x00
  st := 0x00
  disp := Display.blank
  redraw := true
  key := Vector.replicate 16 false
  err := .none
  mem := []
  cfg := c
  rateHz := heldRate rate
  timersRunning := false
  started := false
  beep := false
  agenda := []
  history := []
  draws := 0

/-- The machine right after reset (R36), constructed with the spec's default parameters and, for the arguments of
`Reset` that have no default, those of log entries 1 and 2. -/
def State.reset : State := State.construct Config.default 0

end Sys2Proof.Machine
end

