-- ==== Sys2Proof/Machine/Ops.lean ====
section
/-! DEFINITION. The named operations over registers, memory, stack, keys and display that the meanings share, raising an
error (this machine's exceptions) and emitting a warning. Each is the pseudocode primitive of spec/00_scope.md R10 or
the operation of the rule named. -/

namespace Sys2Proof.Machine

/-- `trunc8(v) = v mod 256` (spec/00_scope.md R9). -/
def trunc8 (v : Nat) : Byte := BitVec.ofNat 8 v

/-- `trunc16(v) = v mod 65536` (R9). -/
def trunc16 (v : Nat) : Word := BitVec.ofNat 16 v

/-! ## Registers -/

/-- `V[x]` (R10; spec/10_state.md R20: a 4-bit index needs no check). -/
def State.getV (s : State) (x : Nibble) : Byte := s.v[x.toNat]'x.isLt

/-- `V[x] <- b`. -/
def State.setV (s : State) (x : Nibble) (b : Byte) : State := { s with v := s.v.set x.toNat b x.isLt }

/-- `VF <- b`, `VF` being `V[15]` (spec/10_state.md R21). -/
def State.setVF (s : State) (b : Byte) : State := s.setV 0xF b

/-- `V[k] <- b` for the bytes of a list at consecutive register numbers from `k` up, ascending. -/
def regsWrite (v : Vector Byte 16) (k : Nat) : List Byte → Vector Byte 16
  | [] => v
  | b :: bs => regsWrite (v.setIfInBounds k b) (k + 1) bs

/-- `I <- w`. -/
def State.setI (s : State) (w : Word) : State := { s with i := w }

/-- `pc <- target`. -/
def State.setPc (s : State) (w : Word) : State := { s with pc := w }

/-- ADVANCE: `pc <- trunc16(pc + 2)` (spec/40_flow.md R100). -/
def State.advance (s : State) : State := s.setPc (trunc16 (s.pc.toNat + 2))

/-- A taken skip: `pc <- trunc16(pc + 2)` once more (spec/41_skip.md R124). -/
def State.skipIf (s : State) (c : Bool) : State := if c then s.setPc (trunc16 (s.pc.toNat + 2)) else s

/-- `pc <- trunc16(pc - 2)`, modulo 65536 (spec/46_keyboard.md R192; spec/10_state.md R23). -/
def State.rewind (s : State) : State := s.setPc (s.pc - 2#16)

/-- `DT <- b`. -/
def State.setDT (s : State) (b : Byte) : State := { s with dt := b }

/-- `ST <- b`. -/
def State.setST (s : State) (b : Byte) : State := { s with st := b }

/-! ## Outputs, warnings, errors -/

/-- Record an output (log entry 7). -/
def State.emit (s : State) (o : Output) : State := { s with history := o :: s.history }

/-- `warn` (R10; spec/60_exceptions.md R214): an output event; no state of the machine changes. -/
def State.warn (s : State) (w : Warning) : State := s.emit (.warning w)

/-- TAKING AN EXCEPTION, one operation for the three errors: `raise E` (R10; spec/60_exceptions.md R210, R219). `ERR <- E`
and the core is halted; earlier changes of the same step stand; nothing else is saved, no handler is entered, `pc` keeps
the value it has. There is no return from it but a reset (R220), `State.resetWith` in Machine/Agents.lean. -/
def State.raise (s : State) (e : ErrorCode) : State := { s with err := e }.emit (.error e s.pc)

/-! ## Memory -/

/-- The number of memory cells (spec/20_memory.md R50). -/
def memSize : Nat := 4096

/-- What an address that is not listed reads as: its reset contents, `FONT` at `0x000..0x04F`, `0x00` elsewhere
(spec/10_state.md R33). -/
def resetByte (font : Vector Byte 80) (a : Nat) : Byte := if h : a < 80 then font[a] else 0x00

/-- `MemRead(a, 1)`. Defined on every number; the rules use it only within the memory (R57), which `inMemory` tests. -/
def Memory.read (font : Vector Byte 80) : Memory → Nat → Byte
  | [], a => resetByte font a
  | (k, b) :: m, a => if k = a then b else Memory.read font m a

/-- The listing without its cell at `a`. -/
def Memory.erase : Memory → Nat → Memory
  | [], _ => []
  | (k, b) :: m, a => if k = a then Memory.erase m a else (k, b) :: Memory.erase m a

/-- The listing with the cell `(a, b)` put before the first greater address. -/
def Memory.insert : Memory → Nat → Byte → Memory
  | [], a, b => [(a, b)]
  | (k, c) :: m, a, b => if a < k then (a, b) :: (k, c) :: m else (k, c) :: Memory.insert m a b

/-- `MemWrite(a, 1, b)`, keeping the canonical form: the value an unlisted address reads as is not listed. -/
def Memory.write (font : Vector Byte 80) (m : Memory) (a : Nat) (b : Byte) : Memory :=
  if b = resetByte font a then m.erase a else (m.erase a).insert a b

/-- Single-byte writes at consecutive ascending addresses from `a` (spec/20_memory.md R54, R56). -/
def Memory.writeBytes (font : Vector Byte 80) (m : Memory) (a : Nat) : List Byte → Memory
  | [] => m
  | b :: bs => Memory.writeBytes font (m.write font a b) (a + 1) bs

/-- Single-byte reads at `n` consecutive ascending addresses from `a`. -/
def Memory.readBytes (font : Vector Byte 80) (m : Memory) (a : Nat) : Nat → List Byte
  | 0 => []
  | n + 1 => m.read font a :: Memory.readBytes font m (a + 1) n

/-- The canonical form: addresses strictly rising and inside the memory, no cell at its reset contents. -/
abbrev Memory.wf (font : Vector Byte 80) (m : Memory) : Prop :=
  m.Pairwise (fun p q => p.1 < q.1) ∧ ∀ c ∈ m, c.1 < memSize ∧ c.2 ≠ resetByte font c.1

/-- `Mem[a]` in a state. -/
def State.readMem (s : State) (a : Nat) : Byte := s.mem.read s.cfg.font a

/-- The bound of spec/20_memory.md R57 on unbounded numbers: the `n` bytes from `base` on lie in the memory. No bytes
always do. -/
def inMemory (base n : Nat) : Bool := n == 0 || base + n - 1 ≤ 0xFFF

/-- The data read of spec/44_index_mem.md R166: the `n` bytes at `I`, `I + 1`, …; none where they leave the memory. -/
def State.loadBytes (s : State) (n : Nat) : Option (List Byte) :=
  if inMemory s.i.toNat n then some (s.mem.readBytes s.cfg.font s.i.toNat n) else none

/-- The data write of R166: the bytes to `I`, `I + 1`, …; none, so nothing written, where they leave the memory. -/
def State.storeBytes (s : State) (bs : List Byte) : Option State :=
  if inMemory s.i.toNat bs.length then
    some { s with mem := s.mem.writeBytes s.cfg.font s.i.toNat bs }
  else none

/-- FETCH: the big-endian word at `pc`, none where `pc > 0xFFE` (spec/40_flow.md R100, R101; spec/20_memory.md R54). -/
def State.fetch (s : State) : Option Word :=
  if inMemory s.pc.toNat 2 then some (wordOfBytes (s.readMem s.pc.toNat) (s.readMem (s.pc.toNat + 1))) else none

/-! ## Call stack (spec/10_state.md R24) -/

/-- `SP`. -/
def State.sp (s : State) : Nat := s.stack.length

/-- `Push(v)`; none where the stack is full. -/
def State.push (s : State) (w : Word) : Option State :=
  if s.sp < s.cfg.stackDepth then some { s with stack := s.stack ++ [w] } else none

/-- `Pop()`: the newest entry and the state without it; none where the stack is empty. -/
def State.pop (s : State) : Option (Word × State) :=
  match s.stack.getLast? with
  | some w => some (w, { s with stack := s.stack.dropLast })
  | none => none

/-! ## Keys (spec/60_exceptions.md R227) -/

/-- The latch `Key[k]` of a key code. -/
def State.latch (s : State) (k : Nibble) : Bool := s.key[k.toNat]'k.isLt

/-- `KeyPressed(k)` for an 8-bit value: false above `0x0F`. -/
def State.keyPressed (s : State) (k : Byte) : Bool :=
  if h : k.toNat < 16 then s.key[k.toNat] else false

/-- `SCAN` of spec/46_keyboard.md R192. -/
def keyScan : List Nibble :=
  [0x1, 0x2, 0x3, 0xC] ++ [0x4, 0x5, 0x6, 0xD] ++ [0x7, 0x8, 0x9, 0xE] ++ [0xA, 0x0, 0xB, 0xF]

/-- The first key of `SCAN` that is down, if any (R192). -/
def State.firstKey (s : State) : Option Nibble := keyScan.find? s.latch

/-! ## Display (spec/45_display.md) -/

/-- `Disp[r][c]`, for any numbers; outside the grid there is no cell, and the answer is false. -/
def Display.get (d : Display) (r c : Nat) : Bool := if h : r < 32 ∧ c < 64 then (d[r]'h.1)[c]'h.2 else false

/-- `Disp[r][c] <- b`; outside the grid there is no cell, and nothing changes. -/
def Display.set (d : Display) (r c : Nat) (b : Bool) : Display :=
  if h : r < 32 ∧ c < 64 then Vector.set d r ((d[r]'h.1).set c b h.2) h.1 else d

/-- The picture while DRAW runs: the display, and whether a collision has occurred. -/
structure Canvas where
  disp : Display
  collision : Bool
deriving DecidableEq, Repr

/-- The body of R181's inner loop, for sprite bit `bit` at row `row`, column `col`: beyond column 63 nothing is
plotted. -/
def Canvas.plot (k : Canvas) (row col : Nat) (bit : Bool) : Canvas :=
  if col ≤ 63 then
    { disp := k.disp.set row col (k.disp.get row col ^^ bit)
      collision := k.collision || (bit && k.disp.get row col) }
  else k

/-- R181's inner loop: `j` in 0..7 ascending, bit `7 - j` of the sprite byte at column `x0 + j`. -/
def Canvas.drawByte (k : Canvas) (row x0 : Nat) (byte : Byte) : Canvas :=
  [0, 1, 2, 3, 4, 5, 6, 7].foldl (fun k j => k.plot row (x0 + j) (byte.getLsbD (7 - j))) k

/-- R181's outer loop: one sprite byte a row from `row` on; a row above 31 ends it. -/
def Canvas.drawRows (k : Canvas) (row x0 : Nat) : List Byte → Canvas
  | [] => k
  | byte :: rest => if row > 31 then k else (k.drawByte row x0 byte).drawRows (row + 1) x0 rest

/-! ## The random draw (spec/60_exceptions.md R235) -/

/-- `Rand()`: the byte of this draw, a free value (log entry 8). -/
def State.rand (s : State) : Byte := Config.randomByte s.draws

/-- One draw has been made; nothing of the machine changes. -/
def State.drawn (s : State) : State := { s with draws := s.draws + 1 }

end Sys2Proof.Machine
end

