-- ==== Sys2Proof/Machine/Operands.lean ====
section
/-! DEFINITION. The operand forms that are more than a register or an immediate as it stands (spec/30_encoding.md R72):
the dialect-dependent ones, the addresses, the decimal digits. -/

namespace Sys2Proof.Machine

/-- `zext_16(NNN)` (R72). -/
def zext16 (nnn : Addr) : Word := nnn.setWidth 16

/-- The operand `t` of the shifts: `V[Y]` when `cfg.SHIFT_USES_Y`, else `V[X]`
(spec/43_alu.md R146, R148). -/
def State.shiftSource (s : State) (x y : Nibble) : Byte := if s.cfg.shiftUsesY then s.getV y else s.getV x

/-- The offset of BNNN: `V[0]` when `cfg.JUMP_USES_V0`, else `V[X]` (spec/40_flow.md R107). -/
def State.jumpOffset (s : State) (x : Nibble) : Byte := if s.cfg.jumpUsesV0 then s.getV 0x0 else s.getV x

/-- `FONT_BASE` (spec/20_memory.md R52). -/
def fontBase : Nat := 0x000

/-- The address of the glyph of a value's low nibble (spec/44_index_mem.md R162). -/
def glyphAddr (b : Byte) : Word := trunc16 (fontBase + (b.toNat % 16) * 5)

/-- Hundreds, tens, units (spec/44_index_mem.md R163). -/
def bcdDigits (b : Byte) : List Byte := [trunc8 (b.toNat / 100), trunc8 (b.toNat / 10 % 10), trunc8 (b.toNat % 10)]

/-- `V[0]..V[X]`, the bytes FX55 stores (spec/44_index_mem.md R164). -/
def State.regsUpTo (s : State) (x : Nibble) : List Byte := s.v.toList.take (x.toNat + 1)

/-- The start column of DRAW (spec/45_display.md R181). -/
def State.drawColumn (s : State) (x : Nibble) : Nat := (s.getV x).toNat % 64

/-- The start row of DRAW (R181). -/
def State.drawRow (s : State) (y : Nibble) : Nat := (s.getV y).toNat % 32

end Sys2Proof.Machine
end

