-- ==== Sys2Proof/Machine/Flags.lean ====
section
/-! DEFINITION. Every value written to VF as a flag (spec/10_state.md R21): "A flag value is always `0x00` or `0x01`." -/

namespace Sys2Proof.Machine.Flags

/-- `0x01` or `0x00`. -/
def ofBool (c : Bool) : Byte := if c then 0x01 else 0x00

/-- ADD: 1 iff the unsigned sum exceeds 255 (spec/43_alu.md R144). -/
def carry (a b : Byte) : Byte := ofBool (255 < a.toNat + b.toNat)

/-- SUB, SUBN: 1 iff subtracting `b` from `a` does not borrow (R145, R147). -/
def noBorrow (a b : Byte) : Byte := ofBool (b.toNat ≤ a.toNat)

/-- SHR: the bit shifted out at the bottom (R146). -/
def shiftedOutLow (t : Byte) : Byte := ofBool (t.getLsbD 0)

/-- SHL: the bit shifted out at the top (R148). -/
def shiftedOutHigh (t : Byte) : Byte := ofBool (t.getLsbD 7)

/-- ADD_INDEX: 1 iff the addition crosses from at most `0x0FFF` to above it (spec/44_index_mem.md R161). -/
def leavesMemory (old sum : Nat) : Byte := ofBool (old ≤ 0x0FFF && 0x0FFF < sum)

/-- DRAW: 1 iff some lit cell received a sprite bit 1 (spec/45_display.md R181). -/
def collision (c : Bool) : Byte := ofBool c

end Sys2Proof.Machine.Flags
end

