-- ==== Sys2Proof/Machine/Alu.lean ====
section
/-! DEFINITION. The register-register instructions (spec/43_alu.md). Both operands are read first; the result is written
next, the flag last (R149). -/

namespace Sys2Proof.Machine

/-- Write order of R149: the result to `V[X]`, then the flag to VF. -/
def State.setVThenFlag (s : State) (x : Nibble) (r flag : Byte) : State := (s.setV x r).setVF flag

/-- COPY `8XY0` (R140). -/
def execCopy (x y : Nibble) (s : State) : Host.Outcome State Fault Refusal :=
  .next (s.setV x (s.getV y))

/-- OR `8XY1` (R141): VF unchanged. -/
def execOr (x y : Nibble) (s : State) : Host.Outcome State Fault Refusal :=
  .next (s.setV x (s.getV x ||| s.getV y))

/-- AND `8XY2` (R142): VF unchanged. -/
def execAnd (x y : Nibble) (s : State) : Host.Outcome State Fault Refusal :=
  .next (s.setV x (s.getV x &&& s.getV y))

/-- XOR `8XY3` (R143): VF unchanged. -/
def execXor (x y : Nibble) (s : State) : Host.Outcome State Fault Refusal :=
  .next (s.setV x (s.getV x ^^^ s.getV y))

/-- ADD `8XY4` (R144). -/
def execAdd (x y : Nibble) (s : State) : Host.Outcome State Fault Refusal :=
  .next (s.setVThenFlag x (trunc8 ((s.getV x).toNat + (s.getV y).toNat)) (Flags.carry (s.getV x) (s.getV y)))

/-- SUB `8XY5` (R145): `(a - b) mod 256`. -/
def execSub (x y : Nibble) (s : State) : Host.Outcome State Fault Refusal :=
  .next (s.setVThenFlag x (s.getV x - s.getV y) (Flags.noBorrow (s.getV x) (s.getV y)))

/-- SHR `8XY6` (R146): a logical shift by one place. -/
def execShr (x y : Nibble) (s : State) : Host.Outcome State Fault Refusal :=
  .next (s.setVThenFlag x (s.shiftSource x y >>> 1) (Flags.shiftedOutLow (s.shiftSource x y)))

/-- SUBN `8XY7` (R147): `(b - a) mod 256`. -/
def execSubn (x y : Nibble) (s : State) : Host.Outcome State Fault Refusal :=
  .next (s.setVThenFlag x (s.getV y - s.getV x) (Flags.noBorrow (s.getV y) (s.getV x)))

/-- SHL `8XYE` (R148): `trunc8(t * 2)`. -/
def execShl (x y : Nibble) (s : State) : Host.Outcome State Fault Refusal :=
  .next (s.setVThenFlag x (trunc8 ((s.shiftSource x y).toNat * 2)) (Flags.shiftedOutHigh (s.shiftSource x y)))

end Sys2Proof.Machine
end

