-- ==== Sys2Proof/Machine/Display.lean ====
section
/-! DEFINITION. The display instructions (spec/45_display.md). -/

namespace Sys2Proof.Machine

/-- CLEAR `00E0` (R180). -/
def execClear (s : State) : Host.Outcome State Fault Refusal :=
  .next { s with disp := Display.blank, redraw := true }

/-- The picture DRAW makes of the sprite bytes, from no collision (R181: "VF is reset to 0 before drawing"). -/
def State.picture (s : State) (x y : Nibble) (bytes : List Byte) : Canvas :=
  Canvas.drawRows ⟨s.disp, false⟩ (s.drawRow y) (s.drawColumn x) bytes

/-- DRAW `DXYN` (R181): both coordinates are read before VF is written; all N sprite bytes must lie in the memory. -/
def execDraw (x y n : Nibble) (s : State) : Host.Outcome State Fault Refusal :=
  match s.loadBytes n.toNat with
  | some bytes =>
    .next { s.setVF (Flags.collision (s.picture x y bytes).collision) with
      disp := (s.picture x y bytes).disp, redraw := true }
  | none => .next (s.warn (.drawBounds s.i n))

end Sys2Proof.Machine
end

