-- ==== Sys2Proof/Machine/Flow.lean ====
section
/-! DEFINITION. Control transfer (spec/40_flow.md): RETURN, JUMP, CALL, JUMP_OFFSET. A meaning starts from the state
whose `pc` is already advanced (R100). -/

namespace Sys2Proof.Machine

/-- RETURN `00EE` (R104). -/
def execRet (s : State) : Host.Outcome State Fault Refusal :=
  match s.pop with
  | some (w, t) => .next (t.setPc w)
  | none => .next (s.raise .emptyStack)

/-- JUMP `1NNN` (R105). -/
def execJump (nnn : Addr) (s : State) : Host.Outcome State Fault Refusal :=
  .next (s.setPc (zext16 nnn))

/-- CALL `2NNN` (R106): the `pc` pushed is the advanced one. -/
def execCall (nnn : Addr) (s : State) : Host.Outcome State Fault Refusal :=
  match s.push s.pc with
  | some t => .next (t.setPc (zext16 nnn))
  | none => .next (s.raise .stackOverflow)

/-- JUMP_OFFSET `BNNN` (R107): the sum is not reduced modulo 4096. -/
def execJumpOffset (nnn : Addr) (x : Nibble) (s : State) : Host.Outcome State Fault Refusal :=
  .next (s.setPc (trunc16 ((zext16 nnn).toNat + (s.jumpOffset x).toNat)))

end Sys2Proof.Machine
end

