-- ==== Sys2Proof/Machine/IndexMem.lean ====
section
/-! DEFINITION. The index register and the moves between registers and memory (spec/44_index_mem.md). `I` is never
modified by an access; a range that leaves the memory skips the instruction with a warning (R166). -/

namespace Sys2Proof.Machine

/-- SET_INDEX `ANNN` (R160). -/
def execSetIndex (nnn : Addr) (s : State) : Host.Outcome State Fault Refusal :=
  .next (s.setI (zext16 nnn))

/-- ADD_INDEX `FX1E` (R161): `V[X]` is read before VF is written; VF is always written. -/
def execAddIndex (x : Nibble) (s : State) : Host.Outcome State Fault Refusal :=
  .next ((s.setI (trunc16 (s.i.toNat + (s.getV x).toNat))).setVF
    (Flags.leavesMemory s.i.toNat (s.i.toNat + (s.getV x).toNat)))

/-- SPRITE_ADDR `FX29` (R162). -/
def execSpriteAddr (x : Nibble) (s : State) : Host.Outcome State Fault Refusal :=
  .next (s.setI (glyphAddr (s.getV x)))

/-- STORE_BCD `FX33` (R163). -/
def execStoreBcd (x : Nibble) (s : State) : Host.Outcome State Fault Refusal :=
  match s.storeBytes (bcdDigits (s.getV x)) with
  | some t => .next t
  | none => .next (s.warn (.bcdBounds s.i))

/-- REG_DUMP `FX55` (R164). -/
def execRegDump (x : Nibble) (s : State) : Host.Outcome State Fault Refusal :=
  match s.storeBytes (s.regsUpTo x) with
  | some t => .next t
  | none => .next (s.warn (.dumpBounds s.i x))

/-- REG_LOAD `FX65` (R165). -/
def execRegLoad (x : Nibble) (s : State) : Host.Outcome State Fault Refusal :=
  match s.loadBytes (x.toNat + 1) with
  | some bs => .next { s with v := regsWrite s.v 0 bs }
  | none => .next (s.warn (.loadBounds s.i x))

end Sys2Proof.Machine
end

