-- ==== Sys2Proof/Machine/Keyboard.lean ====
section
/-! DEFINITION. The keyboard instructions (spec/46_keyboard.md). No instruction writes a latch. -/

namespace Sys2Proof.Machine

/-- KEY_PRESSED `EX9E` (R190): the whole 8-bit `V[X]` is the key code. -/
def execKeyPressed (x : Nibble) (s : State) : Host.Outcome State Fault Refusal :=
  .next (s.skipIf (s.keyPressed (s.getV x)))

/-- KEY_NOT_PRESSED `EXA1` (R191). -/
def execKeyNotPressed (x : Nibble) (s : State) : Host.Outcome State Fault Refusal :=
  .next (s.skipIf (!s.keyPressed (s.getV x)))

/-- WAIT_KEY `FX0A` (R192): with no key down, `pc` goes back to this instruction. -/
def execWaitKey (x : Nibble) (s : State) : Host.Outcome State Fault Refusal :=
  match s.firstKey with
  | some k => .next (s.setV x (k.setWidth 8))
  | none => .next s.rewind

end Sys2Proof.Machine
end

