-- ==== Sys2Proof/Machine/RegImm.lean ====
section
/-! DEFINITION. Register and immediate, and the masked random byte (spec/42_reg_imm.md). -/

namespace Sys2Proof.Machine

/-- LOAD_IMM `6XNN` (R130). -/
def execLoadImm (x : Nibble) (nn : Byte) (s : State) : Host.Outcome State Fault Refusal :=
  .next (s.setV x nn)

/-- ADD_IMM `7XNN` (R131): wraps, and writes no flag. -/
def execAddImm (x : Nibble) (nn : Byte) (s : State) : Host.Outcome State Fault Refusal :=
  .next (s.setV x (trunc8 ((s.getV x).toNat + nn.toNat)))

/-- RANDOM `CXNN` (R132): one fresh draw. -/
def execRandom (x : Nibble) (nn : Byte) (s : State) : Host.Outcome State Fault Refusal :=
  .next (s.drawn.setV x (s.rand &&& nn))

end Sys2Proof.Machine
end

