-- ==== Sys2Proof/Machine/Skip.lean ====
section
/-! DEFINITION. The conditional skips on registers (spec/41_skip.md). -/

namespace Sys2Proof.Machine

/-- SKIPEQ_IMM `3XNN` (R120). -/
def execSkipEqImm (x : Nibble) (nn : Byte) (s : State) : Host.Outcome State Fault Refusal :=
  .next (s.skipIf (s.getV x == nn))

/-- SKIPNEQ_IMM `4XNN` (R121). -/
def execSkipNeqImm (x : Nibble) (nn : Byte) (s : State) : Host.Outcome State Fault Refusal :=
  .next (s.skipIf (s.getV x != nn))

/-- SKIPEQ_REG `5XY_` (R122); the low nibble of the word has no effect. -/
def execSkipEqReg (x y : Nibble) (s : State) : Host.Outcome State Fault Refusal :=
  .next (s.skipIf (s.getV x == s.getV y))

/-- SKIPNEQ_REG `9XY_` (R123); the low nibble of the word has no effect. -/
def execSkipNeqReg (x y : Nibble) (s : State) : Host.Outcome State Fault Refusal :=
  .next (s.skipIf (s.getV x != s.getV y))

end Sys2Proof.Machine
end

