-- ==== Sys2Proof/Machine/Timer.lean ====
section
/-! DEFINITION. The timer instructions (spec/47_timer.md). The ticks are the timer agent's (Machine/Agents.lean). -/

namespace Sys2Proof.Machine

/-- GET_DELAY `FX07` (R200). -/
def execGetDelay (x : Nibble) (s : State) : Host.Outcome State Fault Refusal :=
  .next (s.setV x s.dt)

/-- SET_DELAY `FX15` (R201). -/
def execSetDelay (x : Nibble) (s : State) : Host.Outcome State Fault Refusal :=
  .next (s.setDT (s.getV x))

/-- SET_SOUND `FX18` (R202). -/
def execSetSound (x : Nibble) (s : State) : Host.Outcome State Fault Refusal :=
  .next (s.setST (s.getV x))

end Sys2Proof.Machine
end

