-- ==== Sys2Proof/Machine/Agents.lean ====
section
/-! DEFINITION. The transitions of the three agents (spec/60_exceptions.md R234), each atomic (R230): the execution
agent's step (spec/40_flow.md R100), the timer agent's tick, the host's operations. -/

namespace Sys2Proof.Machine

/-! ## The execution agent -/

/-- The first `Step` after reset has been made (spec/20_memory.md R64). -/
def State.markStarted (s : State) : State := { s with started := true }

/-- FETCH, ADVANCE, DECODE, EXECUTE of a core that is not halted (R100). Out-of-range fetch: R101. Unmapped word: R103. -/
def State.runOne (s : State) : Host.Outcome State Fault Refusal :=
  match s.fetch with
  | none => .next (s.raise .fetchBounds)
  | some w =>
    match decode w with
    | .ok i => exec i s.advance
    | .error _ => .next s.advance

/-- `Step()`. A halted core takes no step: "a request to step changes nothing" (R102). -/
def State.executionStep (s : State) : Host.Outcome State Fault Refusal :=
  match s.err with
  | .none => s.markStarted.runOne
  | _ => .next s

/-! ## The timer agent -/

/-- One tick of a timer: "floored at zero" (R223). -/
def countDown (b : Byte) : Byte := if 0 < b.toNat then trunc8 (b.toNat - 1) else b

/-- `Tick()` (R223, R224): the beep is a function of `ST` at the tick's start; the level is kept until the next tick. -/
def State.ticked (s : State) : State :=
  { s with dt := countDown s.dt, st := countDown s.st, beep := decide (0 < s.st.toNat) }.emit
    (.beep (decide (0 < s.st.toNat)))

/-- Ticks occur from `Initialize` on; before it, none do (spec/70_reset_and_hazards.md R251; log entry 9). -/
def State.tick (s : State) : Host.Outcome State Fault Refusal :=
  if s.timersRunning then .next s.ticked else .refused .tickBeforeInitialize

/-! ## The host -/

/-- `KeyUpdate(key, pressed)` (R226). -/
def State.keyUpdate (s : State) (key : Nibble) (pressed : Bool) : State :=
  { s with key := s.key.set key.toNat pressed key.isLt }

/-- `ConsumeFrame()` (R228). -/
def State.consumeFrame (s : State) : State :=
  if s.redraw then { s with redraw := false }.emit (.frame s.disp) else s

/-- Where a program is loaded (`PROG_BASE`, spec/20_memory.md R52). -/
def progBase : Nat := 0x200

/-- The most bytes `LoadRom` copies (spec/20_memory.md R64). -/
def romMax : Nat := 3584

/-- `LoadRom(bytes)` (R64): truncated silently; only before the first step (log entry 11). -/
def State.loadRom (s : State) (bytes : List Byte) : Host.Outcome State Fault Refusal :=
  if s.started then .refused .loadRomAfterStep
  else .next { s with mem := s.mem.writeBytes s.cfg.font progBase (bytes.take romMax) }

/-- `Initialize()` (spec/70_reset_and_hazards.md R251): ticks begin; nothing else changes (log entry 10). -/
def State.initializeTimers (s : State) : Host.Outcome State Fault Refusal :=
  if s.timersRunning then .refused .initializeTwice else .next { s with timersRunning := true }

/-- `Reset(shift_uses_y, jump_uses_v0, rate)` (R250; spec/10_state.md R36), the only way out of a latched error (R220).
`PC_RESET`, `FONT` and `STACK_DEPTH` are the core's own and stay, and so do the model's own fields (log entry 14). -/
def State.resetWith (s : State) (shiftUsesY jumpUsesV0 : Bool) (rate : Int) : State :=
  { State.construct { s.cfg with shiftUsesY := shiftUsesY, jumpUsesV0 := jumpUsesV0 } rate with
    agenda := s.agenda, history := s.history, draws := s.draws }

/-- The transition of an agent (R234). A query changes nothing but the history that takes its answer (R229). -/
def State.perform (s : State) (t : Transition) : Host.Outcome State Fault Refusal :=
  match t with
  | .step => s.executionStep
  | .tick => s.tick
  | .keyUpdate key pressed => .next (s.keyUpdate key pressed)
  | .consumeFrame => .next s.consumeFrame
  | .loadRom bytes => s.loadRom bytes
  | .initializeTimers => s.initializeTimers
  | .reset shiftUsesY jumpUsesV0 rate => .next (s.resetWith shiftUsesY jumpUsesV0 rate)
  | .queryRedraw => .next (s.emit (.redraw s.redraw))
  | .queryPC => .next (s.emit (.counter s.pc))
  | .queryRate => .next (s.emit (.rate s.rateHz))
  | .queryErr => .next (s.emit (.latch s.err))

/-! ## Which transition is next -/

/-- The agenda without its first transition. -/
def State.popAgenda (s : State) : State := { s with agenda := s.agenda.tail }

/-- The next transition of the machine: the first of the agenda, or where that is empty a `Step` (log entry 6). -/
def State.nextTransition (s : State) : Transition := s.agenda.headD .step

/-- The address at which `withFetchWord` places a word: `pc` where it can be fetched from, else `0x200`. -/
def State.placeBase (s : State) : Word := if inMemory s.pc.toNat 2 then s.pc else 0x0200

/-- The state whose next transition is a `Step`, not halted, that fetches the word `w` (log entry 15). -/
def State.placeWord (s : State) (w : Word) : State :=
  { s with
    agenda := .step :: s.agenda
    err := .none
    pc := s.placeBase
    mem := s.mem.writeBytes s.cfg.font s.placeBase.toNat [highByte w, lowByte w] }

end Sys2Proof.Machine
end

