-- ==== Sys2Proof/Machine/Step.lean ====
section
/-! DEFINITION. One transition of the machine, and the state that runs a given word next. -/

namespace Sys2Proof.Machine

/-- One transition: of the agent whose turn it is (`State.nextTransition`), taken off the agenda. With nothing on the
agenda it is the execution agent's step (spec/40_flow.md R100). -/
def step (s : State) : Host.Outcome State Fault Refusal := s.popAgenda.perform s.nextTransition

/-- `s` with a table word stored where `step` fetches its next instruction, and a `Step` next (log entry 15). -/
def State.withFetchWord (s : State) (nbits w : Nat) : State := s.placeWord (tableWord nbits w)

end Sys2Proof.Machine
end

