-- ==== Sys2Proof/Safety.lean ====
section
/-! DEFINITION. The terms the statements use: the words of the encodings, a halted core, a step of the execution agent,
the invariant of the machine, what each instruction may write (the columns "written by" of spec/10_state.md section 1),
and the sprite of a DRAW as a set of pixels. Nothing here is called by the machine. -/

namespace Sys2Proof

/-- The word with fields `OP`, `X`, `Y`, `N` (spec/30_encoding.md R71), by arithmetic and not by the encoder. -/
def wordXYN (op x y n : Nibble) : Word := BitVec.ofNat 16 (op.toNat * 4096 + x.toNat * 256 + y.toNat * 16 + n.toNat)

/-- The word with fields `OP`, `X`, `NN` (R71). -/
def wordXNN (op x : Nibble) (nn : Byte) : Word := BitVec.ofNat 16 (op.toNat * 4096 + x.toNat * 256 + nn.toNat)

/-- The word with fields `OP`, `NNN` (R71). -/
def wordNNN (op : Nibble) (nnn : Addr) : Word := BitVec.ofNat 16 (op.toNat * 4096 + nnn.toNat)

/-- `V[k]` is a register the instruction may write (spec/10_state.md R20). -/
def Instr.mayWriteV : Instr → Nibble → Bool
  | .loadImm x _, k | .addImm x _, k | .copy x _, k | .or x _, k | .and x _, k | .xor x _, k => k == x
  | .random x _, k | .getDelay x, k | .waitKey x, k => k == x
  | .add x _, k | .sub x _, k | .shr x _, k | .subn x _, k | .shl x _, k => k == x || k == 0xF
  | .draw _ _ _, k | .addIndex _, k => k == 0xF
  | .regLoad x, k => k ≤ x
  | .clear, _ | .ret, _ | .jump _, _ | .call _, _ | .jumpOffset _ _, _ | .setIndex _, _ | .spriteAddr _, _ => false
  | .skipEqImm _ _, _ | .skipNeqImm _ _, _ | .skipEqReg _ _ _, _ | .skipNeqReg _ _ _, _ => false
  | .keyPressed _, _ | .keyNotPressed _, _ | .setDelay _, _ | .setSound _, _ | .storeBcd _, _ | .regDump _, _ => false

/-- The instruction writes VF as a flag (R21). -/
def Instr.writesFlag : Instr → Bool
  | .add _ _ | .sub _ _ | .shr _ _ | .subn _ _ | .shl _ _ | .draw _ _ _ | .addIndex _ => true
  | .clear | .ret | .jump _ | .call _ | .jumpOffset _ _ | .setIndex _ | .spriteAddr _ | .loadImm _ _ | .addImm _ _ => false
  | .copy _ _ | .or _ _ | .and _ _ | .xor _ _ | .random _ _ | .getDelay _ | .waitKey _ | .regLoad _ => false
  | .skipEqImm _ _ | .skipNeqImm _ _ | .skipEqReg _ _ _ | .skipNeqReg _ _ _ | .keyPressed _ | .keyNotPressed _ => false
  | .setDelay _ | .setSound _ | .storeBcd _ | .regDump _ => false

/-- How many bytes from `I` up the instruction stores (spec/44_index_mem.md R163, R164). -/
def Instr.storedBytes : Instr → Nat
  | .storeBcd _ => 3
  | .regDump x => x.toNat + 1
  | .clear | .ret | .jump _ | .call _ | .jumpOffset _ _ | .setIndex _ | .spriteAddr _ | .loadImm _ _ | .addImm _ _ => 0
  | .copy _ _ | .or _ _ | .and _ _ | .xor _ _ | .random _ _ | .getDelay _ | .waitKey _ | .regLoad _ => 0
  | .skipEqImm _ _ | .skipNeqImm _ _ | .skipEqReg _ _ _ | .skipNeqReg _ _ _ | .keyPressed _ | .keyNotPressed _ => 0
  | .setDelay _ | .setSound _ | .add _ _ | .sub _ _ | .shr _ _ | .subn _ _ | .shl _ _ | .draw _ _ _ | .addIndex _ => 0

end Sys2Proof

namespace Sys2Proof.Machine

/-- The core is halted: an error is latched (spec/40_flow.md R102). -/
abbrev State.Halted (s : State) : Prop := s.err ≠ .none

/-- The next transition is a `Step` of a core that is not halted, with a word to fetch in the memory (R100, R101). -/
structure State.ReadyToFetch (s : State) : Prop where
  turn : s.nextTransition = .step
  running : s.err = .none
  inside : s.pc.toNat ≤ 0xFFE

/-- The word at `pc`, big-endian (spec/20_memory.md R54). -/
def State.wordAtPc (s : State) : Word :=
  BitVec.ofNat 16 ((s.readMem s.pc.toNat).toNat * 256 + (s.readMem (s.pc.toNat + 1)).toNat)

/-- The byte at `a` after a store of the `n` bytes `f 0`, `f 1`, … from `I` up: the stored byte in the range, the old byte
outside it (spec/44_index_mem.md R166). -/
def State.byteAfterStore (s : State) (n : Nat) (f : Nat → Byte) (a : Nat) : Byte :=
  if s.i.toNat ≤ a ∧ a < s.i.toNat + n then f (a - s.i.toNat) else s.readMem a

/-- The big-endian word at `pc` after such a store. -/
def State.wordAfterStore (s : State) (n : Nat) (f : Nat → Byte) : Word :=
  BitVec.ofNat 16 ((s.byteAfterStore n f s.pc.toNat).toNat * 256 + (s.byteAfterStore n f (s.pc.toNat + 1)).toNat)

/-- `i` runs to completion from `s`, changes registers only, and leaves `f k` in every `V[k]`. -/
def RegsBecome (i : Instr) (s : State) (f : Nibble → Byte) : Prop :=
  ∃ v : Vector Byte 16, exec i s = .next { s with v := v } ∧ ∀ k : Nibble, v[k.toNat]'k.isLt = f k

/-- What holds of the machine between any two transitions. -/
structure State.Inv (s : State) : Prop where
  /-- The listing of the memory is in canonical form. -/
  memory : s.mem.wf s.cfg.font
  /-- `SP ≤ STACK_DEPTH` (spec/10_state.md R24). -/
  depth : s.stack.length ≤ s.cfg.stackDepth
  /-- Every entry is the address after some CALL, in `0x0002..0x1000` (R23). -/
  entries : ∀ w ∈ s.stack, 2 ≤ w.toNat ∧ w.toNat ≤ 0x1000
  /-- `pc` never exceeds `0x10FE` (R23), given that it does not at reset. -/
  counter : s.pc.toNat ≤ 0x10FE
  entry : s.cfg.pcReset.toNat ≤ 0x10FE
  /-- `RATE_HZ` is positive (spec/00_scope.md R6). -/
  rate : 0 < s.rateHz
  /-- A latched error names its cause (spec/60_exceptions.md R210). -/
  emptyStack : s.err = .emptyStack → s.stack = []
  stackOverflow : s.err = .stackOverflow → s.stack.length = s.cfg.stackDepth
  fetchBounds : s.err = .fetchBounds → 0xFFE < s.pc.toNat
  /-- Only a step latches an error. -/
  halted : s.err ≠ .none → s.started = true
  /-- No beep before `Initialize` (spec/70_reset_and_hazards.md R251). -/
  silent : s.timersRunning = false → s.beep = false

/-- The pixel that DRAW's sprite has at row `r`, column `c` of the grid: the bit of byte `r - y0`, counted from its most
significant, at place `c - x0`; the start is reduced, the body is not (spec/45_display.md R181). -/
def State.spriteBit (s : State) (x y n : Nibble) (r c : Nat) : Bool :=
  decide ((s.getV y).toNat % 32 ≤ r ∧ r < (s.getV y).toNat % 32 + n.toNat ∧
    (s.getV x).toNat % 64 ≤ c ∧ c < (s.getV x).toNat % 64 + 8) &&
  (s.readMem (s.i.toNat + (r - (s.getV y).toNat % 32))).getLsbD (7 - (c - (s.getV x).toNat % 64))

/-- The sprite bytes of `DXYN` lie in the memory (R181). -/
abbrev State.SpriteInside (s : State) (n : Nibble) : Prop := n = 0 ∨ s.i.toNat + n.toNat - 1 ≤ 0xFFF

/-- `t` differs from `s` at most in what no instruction can read: REDRAW, RATE_HZ, the beep level, the two marks of the
host's operations, the agenda and the history (spec/10_state.md R35). -/
abbrev State.SameToProgram (s t : State) : Prop :=
  t = { s with redraw := t.redraw, rateHz := t.rateHz, beep := t.beep, timersRunning := t.timersRunning,
               started := t.started, agenda := t.agenda, history := t.history }

end Sys2Proof.Machine
end

