-- ==== Sys2Proof/Certificates/Slice0/Obligations.lean ====
section
/-! DEFINITION. The statements for the provers. Where a clause rests on a decision of the spec itself
(spec/92_eei_decisions.md) or of the model (notes/assumptions), the docstring says so. `exec i s` runs an instruction
from a state whose `pc` is already advanced (spec/40_flow.md R100). -/

open Sys2Proof Sys2Proof.Machine

/-! ## Encoding -/

/-- Decode and encode agree: every well-formed instruction, with every operand value its encoding admits, decodes back
from its word, and from its two bytes whatever follows them. That BNNN carries X beside NNN, and 5XY_ and 9XY_ their N,
is the model's syntax (log entry 16); that all 16 values of N are the one instruction is the spec's decision D24. -/
def Obligations.EncodedInstructionDecodesBack : Prop :=
  ∀ i : Instr, i.WellFormed →
    decode (encode i) = .ok i ∧ ∀ rest : List Byte, decodeBytes (encodeBytes i ++ rest) = .ok (i, rest)

/-- The other direction: a word that decodes has one meaning and is the word of it; the decoder gives only well-formed
instructions and drops no bit. That no bit of 5XY_ and 9XY_ is dropped is the model's choice: its syntax keeps N (log
entry 16), which the spec's decoding of those words ignores (its decision D24). That CLEAR and RETURN have one word
each, no other `0x0XE0` or `0x0XEE` decoding to them, is R74 by the spec's decision D23. -/
def Obligations.DecodedWordEncodesBack : Prop :=
  ∀ (w : Word) (i : Instr), decode w = .ok i → i.WellFormed ∧ encode i = w

/-- The decoder follows the opcode table: for each of the 34 rows, a word decodes to an instruction of the row exactly
when the row's mask and match select it. The masks of family 0 (the whole word) and of 5XY_ and 9XY_ (the top nibble
alone) are the spec's decisions D23 and D24. -/
def Obligations.DecodeFollowsOpcodeTable : Prop :=
  ∀ (w : Word) (r : Row), r ∈ opcodeTable →
    (r.selects w = true ↔ ∃ i : Instr, decode w = .ok i ∧ i.mnemonic = r.mnemonic)

/-- Which words are unmapped, family by family; whole-word matching in family 0 is the spec's decision D23, that no word
of family 5 or 9 is unmapped its D24. That the decoder rejects such a word by name is log entry 23. -/
def Obligations.UnmappedWordsByFamily : Prop :=
  ∀ w : Word, decode w = .error (.unmapped w) ↔
    ((fieldOp w).toNat = 0x0 ∧ w ≠ 0x00E0 ∧ w ≠ 0x00EE) ∨
    ((fieldOp w).toNat = 0x8 ∧ (fieldN w).toNat ∈ [0x8, 0x9, 0xA, 0xB, 0xC, 0xD, 0xF]) ∨
    ((fieldOp w).toNat = 0xE ∧ (fieldNN w).toNat ∉ [0x9E, 0xA1]) ∨
    ((fieldOp w).toNat = 0xF ∧ (fieldNN w).toNat ∉ [0x07, 0x0A, 0x15, 0x18, 0x1E, 0x29, 0x33, 0x55, 0x65])

/-- Words written out from the spec's decode vectors decode to the instructions they stand for, or to none. That
`0x01E0` is unmapped is the spec's decision D23, that `0x512F` is SKIPEQ_REG its D24; that the instruction read from
`0x512F` keeps N = `0xF` is the model's choice (log entry 16), and that an unmapped word is rejected by the decoder is
log entry 23. -/
def Obligations.SampleWordsDecodeAsListed : Prop :=
  decode 0x00E0 = .ok .clear ∧ decode 0x00EE = .ok .ret ∧ decode 0x2ABC = .ok (.call 0xABC) ∧
  decode 0x3A7F = .ok (.skipEqImm 0xA 0x7F) ∧ decode 0x512F = .ok (.skipEqReg 0x1 0x2 0xF) ∧
  decode 0x8ABE = .ok (.shl 0xA 0xB) ∧ decode 0xA123 = .ok (.setIndex 0x123) ∧ decode 0xC10F = .ok (.random 0x1 0x0F) ∧
  decode 0xD125 = .ok (.draw 0x1 0x2 0x5) ∧ decode 0xEFA1 = .ok (.keyNotPressed 0xF) ∧
  decode 0xFF65 = .ok (.regLoad 0xF) ∧ decode 0x01E0 = .error (.unmapped 0x01E0) ∧
  decode 0x8AB8 = .error (.unmapped 0x8AB8) ∧ decode 0xE19F = .error (.unmapped 0xE19F)

/-- R71: the fields of every word, how NN and NNN are made of the others, and the two bytes of a word in memory. -/
def Obligations.FieldsOfEveryWord : Prop :=
  ∀ w : Word,
    (fieldOp w).toNat = w.toNat / 4096 ∧ (fieldX w).toNat = w.toNat / 256 % 16 ∧
    (fieldY w).toNat = w.toNat / 16 % 16 ∧ (fieldN w).toNat = w.toNat % 16 ∧
    (fieldNN w).toNat = w.toNat % 256 ∧ (fieldNNN w).toNat = w.toNat % 4096 ∧
    (fieldNN w).toNat = (fieldY w).toNat * 16 + (fieldN w).toNat ∧
    (fieldNNN w).toNat = (fieldX w).toNat * 256 + (fieldNN w).toNat ∧
    (highByte w).toNat = (fieldOp w).toNat * 16 + (fieldX w).toNat ∧ lowByte w = fieldNN w ∧
    wordOfBytes (highByte w) (lowByte w) = w

/-! ## The step cycle -/

/-- A step runs the decoded instruction: when the execution agent's turn has come on a core that is not halted, with
`pc` in range, and the big-endian word at `pc` decodes to `i`, the step is `exec i` at the state with `pc` two further.
The step also takes itself off the agenda (log entry 6) and marks the core as started (log entry 17). That a step is one
atomic transition is the spec's decision D13, the list of transitions D15. -/
def Obligations.StepRunsDecodedInstruction : Prop :=
  ∀ (s : State) (i : Instr), s.ReadyToFetch → decode s.wordAtPc = .ok i →
    step s = exec i { s with pc := s.pc + 2, started := true, agenda := s.agenda.tail }

/-- A word that no row of the opcode table selects is a no-operation (R103): of the machine only `pc` advances (log
entry 23). Which words of families 0, 5 and 9 a row selects is the spec's decisions D23 and D24. The step also takes
itself off the agenda (log entry 6) and marks the core as started (log entry 17). -/
def Obligations.UnmappedWordOnlyAdvances : Prop :=
  ∀ s : State, s.ReadyToFetch → (∀ r ∈ opcodeTable, r.selects s.wordAtPc = false) →
    step s = .next { s with pc := s.pc + 2, started := true, agenda := s.agenda.tail }

/-- A fetch outside the memory latches FetchBoundsError, `pc` kept, nothing else of the machine changed. The error is
the spec's decision D6, the latch D5. The event in the history is log entries 7 and 18. That the failing step counts as
the first step is log entry 17, and it takes itself off the agenda (log entry 6). That an error is a next state and not
a fault of the model is log entry 12. -/
def Obligations.FetchOutsideMemoryHalts : Prop :=
  ∀ s : State, s.nextTransition = .step → s.err = .none → 0xFFE < s.pc.toNat →
    step s = .next { s with err := .fetchBounds, started := true, agenda := s.agenda.tail,
                            history := .error .fetchBounds s.pc :: s.history }

/-- A halted core takes no step: a request to step changes nothing but that it leaves the agenda (log entry 6). The spec's
decision D5; log entry 12. -/
def Obligations.HaltedCoreTakesNoStep : Prop :=
  ∀ s : State, s.nextTransition = .step → s.Halted → step s = .next { s with agenda := s.agenda.tail }

/-- Every instruction answers a next state in every state, a latched error included: an error is a next state with `ERR`
latched and not a fault of the model (log entry 12; the latch is the spec's decision D5). Because of that `Fault` has no
constructor, so the second clause, that no transition faults, says no more than this. The third clause: the only
refusals are those of the three host transitions the spec gives no meaning (log entries 9, 10, 11; the spec's decision
D19 for LoadRom; the list of transitions is its D15). -/
def Obligations.OnlyMeaninglessHostTransitionsStop : Prop :=
  (∀ (i : Instr) (s : State), ∃ t, exec i s = .next t) ∧
  (∀ (s : State) (f : Fault), step s ≠ .fault f) ∧
  ∀ (s : State) (r : Refusal), step s = .refused r ↔
    (r = .tickBeforeInitialize ∧ s.nextTransition = .tick ∧ s.timersRunning = false) ∨
    (r = .initializeTwice ∧ s.nextTransition = .initializeTimers ∧ s.timersRunning = true) ∨
    (r = .loadRomAfterStep ∧ (∃ bytes, s.nextTransition = .loadRom bytes) ∧ s.started = true)

/-! ## Control transfer -/

/-- RETURN (R104) pops the newest entry into `pc`; on an empty stack it latches EmptyStackError, `pc` staying at its
advanced value. The event in the history is log entries 7 and 18. The latch is the spec's decision D5, that the popped
entry is no longer state its D30, that the error is a next state log entry 12. -/
def Obligations.ReturnPopsNewestEntry : Prop :=
  decode 0x00EE = .ok .ret ∧ ∀ s : State,
    (∀ (older : List Word) (w : Word), s.stack = older ++ [w] →
      exec .ret s = .next { s with pc := w, stack := older }) ∧
    (s.stack = [] →
      exec .ret s = .next { s with err := .emptyStack, history := .error .emptyStack s.pc :: s.history })

/-- R105, R107: JUMP and JUMP_OFFSET change `pc` only; the target is NNN, and for JUMP_OFFSET NNN plus `V[0]` or `V[X]`
by the dialect flag, X being the top nibble of NNN, never reduced. -/
def Obligations.JumpTargets : Prop :=
  ∀ (nnn : Addr) (s : State),
    decode (wordNNN 0x1 nnn) = .ok (.jump nnn) ∧
    (∃ w : Word, exec (.jump nnn) s = .next { s with pc := w } ∧ w.toNat = nnn.toNat) ∧
    ∀ x : Nibble, x.toNat = nnn.toNat / 256 → decode (wordNNN 0xB nnn) = .ok (.jumpOffset nnn x) ∧
      ∃ w : Word, exec (.jumpOffset nnn x) s = .next { s with pc := w } ∧
        w.toNat = nnn.toNat + (if s.cfg.jumpUsesV0 then s.getV 0x0 else s.getV x).toNat

/-- CALL pushes the advanced `pc` and goes to NNN; with STACK_DEPTH entries in use it latches StackOverflowError and
pushes nothing. The limit and the error are the spec's decision D4, the event in the history is log entries 7 and 18.
The latch is the spec's decision D5, that the error is a next state log entry 12. -/
def Obligations.CallPushesAdvancedCounter : Prop :=
  ∀ (nnn : Addr) (s : State),
    (s.stack.length < s.cfg.stackDepth → ∃ w : Word,
      exec (.call nnn) s = .next { s with pc := w, stack := s.stack ++ [s.pc] } ∧ w.toNat = nnn.toNat) ∧
    (s.stack.length = s.cfg.stackDepth →
      exec (.call nnn) s =
        .next { s with err := .stackOverflow, history := .error .stackOverflow s.pc :: s.history })

/-- RETURN resumes after the CALL: from any state with the stack the CALL left, it gives back the stack before the CALL
and the `pc` that the CALL pushed. That a CALL which latches no error is one with room on the stack is the spec's
decision D4. -/
def Obligations.ReturnUndoesCall : Prop :=
  ∀ (nnn : Addr) (s t u : State), exec (.call nnn) s = .next t → t.err = s.err → s.err = .none →
    u.stack = t.stack → exec .ret u = .next { u with pc := s.pc, stack := s.stack }

/-! ## Skips -/

/-- R120, R121: the skips on an immediate, for equality and inequality; nothing but `pc` changes. -/
def Obligations.SkipsOnImmediate : Prop :=
  ∀ (x : Nibble) (nn : Byte) (s : State),
    decode (wordXNN 0x3 x nn) = .ok (.skipEqImm x nn) ∧ decode (wordXNN 0x4 x nn) = .ok (.skipNeqImm x nn) ∧
    exec (.skipEqImm x nn) s = .next { s with pc := if s.getV x = nn then s.pc + 2 else s.pc } ∧
    exec (.skipNeqImm x nn) s = .next { s with pc := if s.getV x = nn then s.pc else s.pc + 2 }

/-- R122, R123: the skips on two registers, the same for all 16 values of N. That every N decodes and behaves alike is
the spec's decision D24; that the instruction carries N is the model's syntax (log entry 16). -/
def Obligations.SkipsOnRegisters : Prop :=
  ∀ (x y n : Nibble) (s : State),
    decode (wordXYN 0x5 x y n) = .ok (.skipEqReg x y n) ∧ decode (wordXYN 0x9 x y n) = .ok (.skipNeqReg x y n) ∧
    exec (.skipEqReg x y n) s = .next { s with pc := if s.getV x = s.getV y then s.pc + 2 else s.pc } ∧
    exec (.skipNeqReg x y n) s = .next { s with pc := if s.getV x = s.getV y then s.pc else s.pc + 2 }

/-- The skips on a key: the key named by all 8 bits of `V[X]` is down, or is not; a code above `0x0F` is not pressed (the
spec's decision D8). -/
def Obligations.SkipsOnKey : Prop :=
  ∀ (x : Nibble) (s : State),
    (∀ k : Nibble, (s.getV x).toNat = k.toNat →
      exec (.keyPressed x) s = .next { s with pc := if s.latch k = true then s.pc + 2 else s.pc } ∧
      exec (.keyNotPressed x) s = .next { s with pc := if s.latch k = true then s.pc else s.pc + 2 }) ∧
    (0x0F < (s.getV x).toNat →
      exec (.keyPressed x) s = .next s ∧ exec (.keyNotPressed x) s = .next { s with pc := s.pc + 2 })

/-! ## Registers and immediates -/

/-- R130, R131: LOAD_IMM and ADD_IMM write `V[X]` only; the sum wraps modulo 256 and no flag is written. -/
def Obligations.LoadAndAddImmediate : Prop :=
  ∀ (x : Nibble) (nn : Byte) (s : State),
    decode (wordXNN 0x6 x nn) = .ok (.loadImm x nn) ∧ decode (wordXNN 0x7 x nn) = .ok (.addImm x nn) ∧
    RegsBecome (.loadImm x nn) s (fun k => if k = x then nn else s.getV k) ∧
    RegsBecome (.addImm x nn) s
      (fun k => if k = x then BitVec.ofNat 8 (((s.getV x).toNat + nn.toNat) % 256) else s.getV k)

/-- RANDOM masks one fresh draw, whatever its value (log entry 8; the spec's decision D14): one draw is counted, nothing
but `V[X]` changes, and every bit of `V[X]` whose NN bit is 0 is 0. -/
def Obligations.RandomIsMaskedDraw : Prop :=
  ∀ (x : Nibble) (nn : Byte) (s : State), ∃ v : Vector Byte 16,
    exec (.random x nn) s = .next { s with v := v, draws := s.draws + 1 } ∧
    (∀ k : Nibble, v[k.toNat]'k.isLt = if k = x then Config.randomByte s.draws &&& nn else s.getV k) ∧
    ∀ j : Nat, nn.getLsbD j = false → (v[x.toNat]'x.isLt).getLsbD j = false

/-! ## Register-register instructions -/

/-- R140: COPY writes `V[X]` only, with `V[Y]`. -/
def Obligations.CopyWritesOneRegister : Prop :=
  ∀ (x y : Nibble) (s : State), decode (wordXYN 0x8 x y 0x0) = .ok (.copy x y) ∧
    RegsBecome (.copy x y) s (fun k => if k = x then s.getV y else s.getV k)

/-- OR, AND, XOR write `V[X]` only, bit by bit; VF is left alone unless it is `V[X]` (the spec's decision D29). -/
def Obligations.BitwiseLeavesFlagAlone : Prop :=
  ∀ (x y : Nibble) (s : State),
    RegsBecome (.or x y) s (fun k => if k = x then s.getV x ||| s.getV y else s.getV k) ∧
    RegsBecome (.and x y) s (fun k => if k = x then s.getV x &&& s.getV y else s.getV k) ∧
    RegsBecome (.xor x y) s (fun k => if k = x then s.getV x ^^^ s.getV y else s.getV k)

/-- ADD for all operand bytes and register numbers; where X is 15 the carry stays and the sum is lost (the order of the
two writes is the spec's decision D9). Both results are of the old values: operands are read before the first write
(D10). -/
def Obligations.AddSetsCarry : Prop :=
  ∀ (x y : Nibble) (s : State),
    decode (wordXYN 0x8 x y 0x4) = .ok (.add x y) ∧
    RegsBecome (.add x y) s (fun k =>
      if k = 0xF then (if (s.getV x).toNat + (s.getV y).toNat > 255 then 0x01 else 0x00)
      else if k = x then BitVec.ofNat 8 (((s.getV x).toNat + (s.getV y).toNat) % 256)
      else s.getV k)

/-- SUB and SUBN, the difference modulo 256 of the integers, VF = 1 exactly when there is no borrow; where X is 15 the
flag stays (the spec's decision D9). Both results are of the old values: operands are read before the first write (D10).
-/
def Obligations.SubtractSetsNoBorrow : Prop :=
  ∀ (x y : Nibble) (s : State),
    decode (wordXYN 0x8 x y 0x5) = .ok (.sub x y) ∧ decode (wordXYN 0x8 x y 0x7) = .ok (.subn x y) ∧
    RegsBecome (.sub x y) s (fun k =>
      if k = 0xF then (if (s.getV x).toNat ≥ (s.getV y).toNat then 0x01 else 0x00)
      else if k = x then BitVec.ofInt 8 (((s.getV x).toNat - (s.getV y).toNat : Int) % 256)
      else s.getV k) ∧
    RegsBecome (.subn x y) s (fun k =>
      if k = 0xF then (if (s.getV y).toNat ≥ (s.getV x).toNat then 0x01 else 0x00)
      else if k = x then BitVec.ofInt 8 (((s.getV y).toNat - (s.getV x).toNat : Int) % 256)
      else s.getV k)

/-- SHR and SHL by one place of `V[Y]` or `V[X]` by the dialect flag; VF is the bit shifted out; where X is 15 the flag
stays (the spec's decision D9). Both results are of the old values: operands are read before the first write (D10). -/
def Obligations.ShiftsKeepTheBitShiftedOut : Prop :=
  ∀ (x y : Nibble) (s : State) (t : Byte), t = (if s.cfg.shiftUsesY then s.getV y else s.getV x) →
    decode (wordXYN 0x8 x y 0x6) = .ok (.shr x y) ∧ decode (wordXYN 0x8 x y 0xE) = .ok (.shl x y) ∧
    RegsBecome (.shr x y) s (fun k =>
      if k = 0xF then BitVec.ofNat 8 (t.toNat % 2)
      else if k = x then BitVec.ofNat 8 (t.toNat / 2)
      else s.getV k) ∧
    RegsBecome (.shl x y) s (fun k =>
      if k = 0xF then BitVec.ofNat 8 (t.toNat / 128)
      else if k = x then BitVec.ofNat 8 (t.toNat * 2 % 256)
      else s.getV k)

/-! ## Index register and memory -/

/-- R160, R162: SET_INDEX and SPRITE_ADDR write `I` only: NNN, and five times the low nibble of `V[X]`. -/
def Obligations.IndexLoads : Prop :=
  ∀ s : State,
    (∀ nnn : Addr, decode (wordNNN 0xA nnn) = .ok (.setIndex nnn) ∧
      ∃ w : Word, exec (.setIndex nnn) s = .next { s with i := w } ∧ w.toNat = nnn.toNat) ∧
    ∀ x : Nibble, decode (wordXNN 0xF x 0x29) = .ok (.spriteAddr x) ∧
      ∃ w : Word, exec (.spriteAddr x) s = .next { s with i := w } ∧
      w.toNat = 0x000 + (s.getV x).toNat % 16 * 5

/-- ADD_INDEX adds `V[X]` to `I` modulo 65536 (the wrap is the spec's decision D11); VF = 1 exactly when the addition
crosses from at most `0x0FFF` to above it; `V[X]` is read before VF is written, also where X is 15 (D10). -/
def Obligations.AddIndexFlagsLeavingMemory : Prop :=
  ∀ (x : Nibble) (s : State), ∃ (v : Vector Byte 16) (w : Word),
    exec (.addIndex x) s = .next { s with v := v, i := w } ∧
    w.toNat = (s.i.toNat + (s.getV x).toNat) % 65536 ∧
    ∀ k : Nibble, v[k.toNat]'k.isLt =
      if k = 0xF then
        (if s.i.toNat ≤ 0x0FFF ∧ s.i.toNat + (s.getV x).toNat > 0x0FFF then 0x01 else 0x00)
      else s.getV k

/-- STORE_BCD (R163) stores the three decimal digits of `V[X]` at `I`, `I+1`, `I+2` and changes no other byte and
nothing else; where they do not fit in the memory, nothing is written and the warning is emitted, into the history (log
entry 7). That the bound is tested on the unreduced `I + 2` is the spec's decision D12, the warning's kind and payload
D18. -/
def Obligations.StoreBcdStoresDigits : Prop :=
  ∀ (x : Nibble) (s : State),
    decode (wordXNN 0xF x 0x33) = .ok (.storeBcd x) ∧
    (s.i.toNat + 2 ≤ 0xFFF → ∃ m : Memory,
      exec (.storeBcd x) s = .next { s with mem := m } ∧
      m.read s.cfg.font s.i.toNat = BitVec.ofNat 8 ((s.getV x).toNat / 100) ∧
      m.read s.cfg.font (s.i.toNat + 1) = BitVec.ofNat 8 ((s.getV x).toNat / 10 % 10) ∧
      m.read s.cfg.font (s.i.toNat + 2) = BitVec.ofNat 8 ((s.getV x).toNat % 10) ∧
      ∀ a : Nat, a < s.i.toNat ∨ s.i.toNat + 2 < a → m.read s.cfg.font a = s.readMem a) ∧
    (0xFFF < s.i.toNat + 2 →
      exec (.storeBcd x) s = .next { s with history := .warning (.bcdBounds s.i) :: s.history })

/-- REG_DUMP (R164) stores `V[0]..V[X]` at `I..I+X` and changes no other byte and nothing else, `I` included; where they
do not fit in the memory, nothing is written and the warning is emitted, into the history (log entry 7). That the bound
is tested on the unreduced `I + X` is the spec's decision D12, the warning's kind and payload D18. -/
def Obligations.RegDumpStoresRegisters : Prop :=
  ∀ (x : Nibble) (s : State),
    decode (wordXNN 0xF x 0x55) = .ok (.regDump x) ∧
    (s.i.toNat + x.toNat ≤ 0xFFF → ∃ m : Memory,
      exec (.regDump x) s = .next { s with mem := m } ∧
      (∀ k : Nibble, k.toNat ≤ x.toNat → m.read s.cfg.font (s.i.toNat + k.toNat) = s.getV k) ∧
      ∀ a : Nat, a < s.i.toNat ∨ s.i.toNat + x.toNat < a → m.read s.cfg.font a = s.readMem a) ∧
    (0xFFF < s.i.toNat + x.toNat →
      exec (.regDump x) s = .next { s with history := .warning (.dumpBounds s.i x) :: s.history })

/-- REG_LOAD (R165) loads `V[0]..V[X]` from `I..I+X`, registers above X and everything else unchanged; where the range
leaves the memory, no register is written and the warning is emitted, into the history (log entry 7). That the bound is
tested on the unreduced `I + X` is the spec's decision D12, the warning's kind and payload D18. -/
def Obligations.RegLoadLoadsRegisters : Prop :=
  ∀ (x : Nibble) (s : State),
    decode (wordXNN 0xF x 0x65) = .ok (.regLoad x) ∧
    (s.i.toNat + x.toNat ≤ 0xFFF →
      RegsBecome (.regLoad x) s
        (fun k => if k.toNat ≤ x.toNat then s.readMem (s.i.toNat + k.toNat) else s.getV k)) ∧
    (0xFFF < s.i.toNat + x.toNat →
      exec (.regLoad x) s = .next { s with history := .warning (.loadBounds s.i x) :: s.history })

/-- The source's round trip: REG_DUMP, then REG_LOAD with the same X from any state with that memory and that `I`,
restores `V[0]..V[X]` to what they were, and all registers above X stay what they are there. In bounds means the
unreduced `I + X` (the spec's decision D12). -/
def Obligations.LoadUndoesDump : Prop :=
  ∀ (x : Nibble) (s t u : State), s.i.toNat + x.toNat ≤ 0xFFF → exec (.regDump x) s = .next t →
    u.mem = t.mem → u.i = s.i → u.cfg = s.cfg →
    RegsBecome (.regLoad x) u (fun k => if k.toNat ≤ x.toNat then s.getV k else u.getV k)

/-- Self-modifying code works without a fence (the spec's decision D28): after a STORE_BCD or a REG_DUMP in bounds,
wherever `I` points, the next fetch reads at `pc` and `pc + 1` the stored byte where the store covers the address and
the old byte where it does not. In bounds means the unreduced sum (D12). -/
def Obligations.StoreIsSeenByNextFetch : Prop :=
  ∀ (x : Nibble) (s : State), s.pc.toNat ≤ 0xFFE →
    (s.i.toNat + 2 ≤ 0xFFF → ∃ t : State, exec (.storeBcd x) s = .next t ∧ t.pc = s.pc ∧
      t.fetch = some (s.wordAfterStore 3 fun k => BitVec.ofNat 8 ((s.getV x).toNat / 10 ^ (2 - k) % 10))) ∧
    (s.i.toNat + x.toNat ≤ 0xFFF → ∃ t : State, exec (.regDump x) s = .next t ∧ t.pc = s.pc ∧
      t.fetch = some (s.wordAfterStore (x.toNat + 1) fun k => s.getV (BitVec.ofNat 4 k)))

/-! ## Display -/

/-- CLEAR zeroes every cell and sets REDRAW, VF included in what it leaves alone. Setting REDRAW whether or not a cell
changes is the spec's decision D17. -/
def Obligations.ClearBlanksDisplay : Prop :=
  ∀ s : State, ∃ d : Display, exec .clear s = .next { s with disp := d, redraw := true } ∧
    ∀ r c : Nat, r < 32 → c < 64 → d.get r c = false

/-- DRAW, pixel by pixel: with the sprite bytes in the memory, every cell is exclusive-ORed with the sprite's pixel
there (start coordinates reduced, body clipped at both edges), VF is 1 exactly when a lit cell received a sprite bit 1
and 0 otherwise, REDRAW is set, and nothing else changes. The coordinates are read before VF is reset (the spec's
decision D34), the bounds test is D7, REDRAW D17. The bound is tested on the unreduced sum (D12). -/
def Obligations.DrawXorsClippedSprite : Prop :=
  ∀ (x y n : Nibble) (s : State), s.SpriteInside n → ∃ (v : Vector Byte 16) (d : Display),
    exec (.draw x y n) s = .next { s with v := v, disp := d, redraw := true } ∧
    (∀ r c : Nat, r < 32 → c < 64 → d.get r c = (s.disp.get r c ^^ s.spriteBit x y n r c)) ∧
    (v[15] = 0x01 ↔ ∃ r c : Nat, r < 32 ∧ c < 64 ∧ s.spriteBit x y n r c = true ∧ s.disp.get r c = true) ∧
    (v[15] = 0x00 ↔ ∀ r c : Nat, r < 32 → c < 64 → s.spriteBit x y n r c = true → s.disp.get r c = false) ∧
    ∀ k : Nibble, k ≠ 0xF → v[k.toNat]'k.isLt = s.getV k

/-- DRAW whose sprite bytes do not all lie in the memory is skipped with a warning, which goes into the history (log
entry 7): display, VF and REDRAW keep their values (the spec's decision D7). The bound is tested on the unreduced sum
(D12); the warning's kind and payload are D18. -/
def Obligations.DrawOutsideMemoryIsSkipped : Prop :=
  ∀ (x y n : Nibble) (s : State), ¬ s.SpriteInside n →
    exec (.draw x y n) s = .next { s with history := .warning (.drawBounds s.i n) :: s.history }

/-- Drawing the same sprite twice at the same place restores the display; the second draw reports a collision exactly
when some plotted sprite bit fell on a cell that was dark at first (log entry 22). The bounds condition is the spec's
decisions D7 and D12; that the coordinates are read before VF is reset is D34. -/
def Obligations.SecondDrawRestoresDisplay : Prop :=
  ∀ (x y n : Nibble) (s t u : State), s.SpriteInside n →
    exec (.draw x y n) s = .next t → (t.getV x).toNat % 64 = (s.getV x).toNat % 64 →
    (t.getV y).toNat % 32 = (s.getV y).toNat % 32 → exec (.draw x y n) t = .next u →
    u.disp = s.disp ∧
    (u.getV 0xF = 0x01 ↔
      ∃ r c : Nat, r < 32 ∧ c < 64 ∧ s.spriteBit x y n r c = true ∧ s.disp.get r c = false)

/-! ## Keyboard -/

/-- R192: WAIT_KEY writes the first key of the scan order that is down to `V[X]` and nothing else; with no key down it
takes `pc` back by 2 and changes nothing else. That the 16 latches are read from one state is the spec's decision D13
(R231; log entry 20): in the source each latch read locks separately. -/
def Obligations.WaitKeyTakesFirstInScanOrder : Prop :=
  ∀ (x : Nibble) (s : State),
    decode (wordXNN 0xF x 0x0A) = .ok (.waitKey x) ∧
    (∀ (pre post : List Nibble) (key : Nibble),
      ([0x1, 0x2, 0x3, 0xC, 0x4, 0x5, 0x6, 0xD, 0x7, 0x8, 0x9, 0xE, 0xA, 0x0, 0xB, 0xF] : List Nibble) =
        pre ++ key :: post →
      s.latch key = true → (∀ j ∈ pre, s.latch j = false) →
      RegsBecome (.waitKey x) s (fun k => if k = x then BitVec.ofNat 8 key.toNat else s.getV k)) ∧
    ((∀ k : Nibble, s.latch k = false) → exec (.waitKey x) s = .next { s with pc := s.pc - 2 })

/-- A WAIT_KEY with no key down, as a whole step, leaves the state as it was, so that it is retried (apart from the
agenda, log entry 6, and the mark that a step has been made, log entry 17). That the step is one atomic transition is
the spec's decision D13 (log entry 20). So is the reading of the 16 latches from one state (R231). -/
def Obligations.WaitKeyWithoutKeyIsRetried : Prop :=
  ∀ (x : Nibble) (s : State), s.ReadyToFetch → decode s.wordAtPc = .ok (.waitKey x) →
    (∀ k : Nibble, s.latch k = false) → step s = .next { s with started := true, agenda := s.agenda.tail }

/-! ## Timers and the timer agent -/

/-- R200, R201, R202: GET_DELAY copies DT to `V[X]`; SET_DELAY and SET_SOUND copy `V[X]` to DT and to ST; nothing else
changes. That no tick overlaps the step is the spec's decisions D13 and D32. -/
def Obligations.TimerMoves : Prop :=
  ∀ (x : Nibble) (s : State),
    decode (wordXNN 0xF x 0x07) = .ok (.getDelay x) ∧ decode (wordXNN 0xF x 0x15) = .ok (.setDelay x) ∧
    decode (wordXNN 0xF x 0x18) = .ok (.setSound x) ∧
    RegsBecome (.getDelay x) s (fun k => if k = x then s.dt else s.getV k) ∧
    exec (.setDelay x) s = .next { s with dt := s.getV x } ∧
    exec (.setSound x) s = .next { s with st := s.getV x }

/-- A tick takes one from each timer above zero, the two independently, and emits the beep of a tick at whose start ST is
above zero; it writes nothing else of the machine. It runs also on a halted core. The beep level is log entry 13, the event
in the history 7, the agenda 6. -/
def Obligations.TickCountsDown : Prop :=
  ∀ s : State, s.nextTransition = .tick → s.timersRunning = true → ∃ dt st : Byte,
    step s = .next { s with dt := dt, st := st, beep := decide (s.st.toNat > 0), agenda := s.agenda.tail,
                            history := .beep (decide (s.st.toNat > 0)) :: s.history } ∧
    dt.toNat = (if s.dt.toNat > 0 then s.dt.toNat - 1 else 0) ∧
    st.toNat = (if s.st.toNat > 0 then s.st.toNat - 1 else 0)

/-- Any number of ticks in a row: both timers count down to zero and stay there, the first `ST` ticks beep, the later ones
do not, and nothing else of the machine changes. The ticks stand on the agenda (log entry 6), the beeps in the history (log
entry 7), the level is log entry 13. -/
def Obligations.SoundTimerBeepsForItsValue : Prop :=
  ∀ (n : Nat) (s : State), s.timersRunning = true → ∃ t : State,
    Host.Core.run Sys2Proof.core n { s with agenda := List.replicate n .tick } = .next t ∧
    t.dt.toNat = s.dt.toNat - n ∧ t.st.toNat = s.st.toNat - n ∧
    t.history = List.replicate (n - s.st.toNat) (.beep false) ++
      (List.replicate (min n s.st.toNat) (.beep true) ++ s.history) ∧
    t = { s with dt := t.dt, st := t.st, beep := t.beep, agenda := [], history := t.history }

/-- No instruction but GET_DELAY reads a timer: with other timer values, every other instruction does the same to
everything but the timers, leaves a timer it does not write at the value it had, and writes the same value to the timer it
writes. For RANDOM this compares two runs with one draw count, so with one byte (log entry 8). -/
def Obligations.OnlyGetDelayReadsATimer : Prop :=
  ∀ (i : Instr) (s t : State) (dt st : Byte), (∀ x : Nibble, i ≠ .getDelay x) → exec i s = .next t →
    ∃ u : State, exec i { s with dt := dt, st := st } = .next u ∧
      u = { t with dt := u.dt, st := u.st } ∧
      ((∀ x : Nibble, i ≠ .setDelay x) → t.dt = s.dt ∧ u.dt = dt) ∧
      ((∀ x : Nibble, i ≠ .setSound x) → t.st = s.st ∧ u.st = st) ∧
      (∀ x : Nibble, i = .setDelay x → u.dt = t.dt) ∧
      ∀ x : Nibble, i = .setSound x → u.st = t.st

/-! ## The host -/

/-- KeyUpdate (R226) overwrites one latch and touches nothing else of the machine, whatever the core is doing; it leaves the
agenda (log entry 6). -/
def Obligations.KeyUpdateSetsOneLatch : Prop :=
  ∀ (s : State) (key : Nibble) (pressed : Bool), s.nextTransition = .keyUpdate key pressed →
    ∃ latches : Vector Bool 16,
      step s = .next { s with key := latches, agenda := s.agenda.tail } ∧
      ∀ k : Nibble, latches[k.toNat]'k.isLt = if k = key then pressed else s.latch k

/-- ConsumeFrame returns the display and clears REDRAW when a redraw is pending, and does nothing otherwise. Reading and
clearing in one transition is the spec's decision D33; the returned frame stands in the history (log entry 7), and the
transition leaves the agenda (log entry 6). -/
def Obligations.ConsumeFrameTakesPendingFrame : Prop :=
  ∀ s : State, s.nextTransition = .consumeFrame →
    (s.redraw = true → step s = .next { s with redraw := false, agenda := s.agenda.tail,
                                               history := .frame s.disp :: s.history }) ∧
    (s.redraw = false → step s = .next { s with agenda := s.agenda.tail })

/-- The four queries answer REDRAW, `pc`, RATE_HZ and ERR and change nothing of the machine. The answers stand in the
history (log entry 7), and the transition leaves the agenda (log entry 6). That there is a query of ERR is the spec's
decision D15, which adds it; that a query answers the state between two transitions is its D26. -/
def Obligations.QueriesOnlyAnswer : Prop :=
  ∀ s : State,
    (s.nextTransition = .queryRedraw →
      step s = .next { s with agenda := s.agenda.tail, history := .redraw s.redraw :: s.history }) ∧
    (s.nextTransition = .queryPC →
      step s = .next { s with agenda := s.agenda.tail, history := .counter s.pc :: s.history }) ∧
    (s.nextTransition = .queryRate →
      step s = .next { s with agenda := s.agenda.tail, history := .rate s.rateHz :: s.history }) ∧
    (s.nextTransition = .queryErr →
      step s = .next { s with agenda := s.agenda.tail, history := .latch s.err :: s.history })

/-- LoadRom before the first step: byte `i` of the ROM goes to `0x200 + i` for the bytes that fit, the rest are dropped, no
other byte and nothing else of the machine changes. That it is allowed only then is the spec's decision D19 (log entries 11,
17); the transition leaves the agenda (log entry 6). -/
def Obligations.LoadRomCopiesWhatFits : Prop :=
  ∀ (s : State) (rom : List Byte), s.nextTransition = .loadRom rom → s.started = false → ∃ m : Memory,
    step s = .next { s with mem := m, agenda := s.agenda.tail } ∧
    (∀ (i : Nat) (h : i < rom.length), i < 3584 → m.read s.cfg.font (0x200 + i) = rom[i]) ∧
    ∀ a : Nat, a < 0x200 ∨ 0x200 + min rom.length 3584 ≤ a → m.read s.cfg.font a = s.readMem a

/-- Reset puts every piece of state at its reset value, from every state, a halted one included; the dialect flags and
the rate become the supplied values, a rate of at most 0 becoming 700. The values of the timers, keys and ERR are the
spec's decisions D2, D3, D5; that PC_RESET, FONT and STACK_DEPTH and the model's own fields stay is log entry 14, but
that the transition leaves the agenda (log entry 6); the beep level is log entry 13, the marks of the host's operations
17. That `pc` becomes PC_RESET is the spec's decision D1, that a reset may come at any time its D15. -/
def Obligations.ResetPutsEveryPieceAtItsValue : Prop :=
  ∀ (s : State) (shiftUsesY jumpUsesV0 : Bool) (rate : Int),
    s.nextTransition = .reset shiftUsesY jumpUsesV0 rate → ∃ t : State, step s = .next t ∧
      (∀ k : Nibble, t.getV k = 0x00) ∧ t.i = 0x0000 ∧ t.pc = s.cfg.pcReset ∧ t.stack = [] ∧
      t.dt = 0x00 ∧ t.st = 0x00 ∧ (∀ r c : Nat, r < 32 → c < 64 → t.disp.get r c = false) ∧ t.redraw = true ∧
      (∀ k : Nibble, t.latch k = false) ∧ t.err = .none ∧
      (∀ (a : Nat) (h : a < 80), t.readMem a = s.cfg.font[a]) ∧ (∀ a : Nat, 80 ≤ a → t.readMem a = 0x00) ∧
      t.cfg = { s.cfg with shiftUsesY := shiftUsesY, jumpUsesV0 := jumpUsesV0 } ∧
      t.rateHz = (if rate ≤ 0 then 700 else rate) ∧
      t.timersRunning = false ∧ t.started = false ∧ t.beep = false ∧
      t.agenda = s.agenda.tail ∧ t.history = s.history ∧ t.draws = s.draws

/-- The values after reset (R36). Those the spec takes from its source: the registers, `I`, the stack, the display,
REDRAW and the memory but for the font's bytes. Those that are the spec's own decisions: `pc` at PC_RESET = 0 (D1; log
entry 3), the timers (D2), the keys (D3), STACK_DEPTH = 16 (D4; log entry 5), ERR (D5), the font's bytes (D16; log
entry 4); D19 confirms the zeros of `0x050` to `0x1FF`. The supplied rate, which RATE_HZ shows, is the model's choice
(log entry 2). Left out here: the dialect flags (log entry 1), the beep level (log entry 13), the marks of the host's
operations (log entry 17) and the model's own agenda, history and draw count (log entries 6, 7, 8). -/
def Obligations.StateAfterReset : Prop :=
  (∀ k : Nibble, State.reset.getV k = 0x00) ∧ State.reset.i = 0x0000 ∧ State.reset.pc = 0x0000 ∧
  State.reset.stack = [] ∧ State.reset.dt = 0x00 ∧ State.reset.st = 0x00 ∧
  (∀ r c : Nat, r < 32 → c < 64 → State.reset.disp.get r c = false) ∧ State.reset.redraw = true ∧
  (∀ k : Nibble, State.reset.latch k = false) ∧ State.reset.err = .none ∧
  (∀ (a : Nat) (h : a < 80), State.reset.readMem a = Config.defaultFont[a]) ∧
  (∀ a : Nat, 80 ≤ a → State.reset.readMem a = 0x00) ∧ State.reset.cfg.stackDepth = 16 ∧
  State.reset.rateHz = 700

/-- Initialize, on a core where it has not been performed since the reset (a mark, log entry 17), starts the timer agent
and changes nothing else of the machine; the order of LoadRom and Initialize before the first step makes no difference.
The transitions stand on the agenda and leave it (log entry 6). That LoadRom comes before the first step only is the
spec's decision D19. -/
def Obligations.InitializeInEitherBootOrder : Prop :=
  (∀ s : State, s.nextTransition = .initializeTimers → s.timersRunning = false →
    step s = .next { s with timersRunning := true, agenda := s.agenda.tail }) ∧
  ∀ (s : State) (rom : List Byte), s.started = false → s.timersRunning = false → ∃ t : State,
    Host.Core.run Sys2Proof.core 2 { s with agenda := [.loadRom rom, .initializeTimers] } = .next t ∧
    Host.Core.run Sys2Proof.core 2 { s with agenda := [.initializeTimers, .loadRom rom] } = .next t ∧
    t.timersRunning = true

/-! ## Whole-machine rules -/

/-- What the execution agent never writes: the key latches, the configuration, RATE_HZ, the beep level (log entry 13),
the marks of the host's operations (log entry 17) and the agenda (log entry 6); and it never clears REDRAW. The division
of the writers among the agents is the spec's R230 with its decisions D13 and D32. -/
def Obligations.InstructionsNeverWriteHostState : Prop :=
  ∀ (i : Instr) (s t : State), exec i s = .next t →
    t.key = s.key ∧ t.cfg = s.cfg ∧ t.rateHz = s.rateHz ∧ t.beep = s.beep ∧
    t.timersRunning = s.timersRunning ∧ t.started = s.started ∧ t.agenda = s.agenda ∧
    (s.redraw = true → t.redraw = true)

/-- What each instruction may write, for the general registers and memory: a register only if the summary of the spec
names it for the instruction, a byte of memory only if it is one of those FX33 or FX55 stores from `I` up. That OR, AND
and XOR do not write VF is the spec's decision D29; that the stored range is the unreduced one is D12. -/
def Obligations.RegistersAndMemoryFrame : Prop :=
  ∀ (i : Instr) (s t : State), exec i s = .next t →
    (∀ k : Nibble, i.mayWriteV k = false → t.getV k = s.getV k) ∧
    ∀ a : Nat, a < s.i.toNat ∨ s.i.toNat + i.storedBytes ≤ a → t.readMem a = s.readMem a

/-- What each instruction may write, for the rest: `I` only by ANNN, FX1E, FX29; the stack only by 2NNN and 00EE; DT
only by FX15, ST by FX18; the display by 00E0 and DXYN; a random byte is drawn (the draw count, log entry 8) by CXNN
only. That a CALL on a full stack does not write it is the spec's decision D4, the free draw D14, REDRAW D17. -/
def Obligations.SpecialStateFrame : Prop :=
  ∀ (i : Instr) (s t : State), exec i s = .next t →
    (t.i ≠ s.i → (∃ nnn, i = .setIndex nnn) ∨ (∃ x, i = .addIndex x) ∨ ∃ x, i = .spriteAddr x) ∧
    (t.stack ≠ s.stack → i = .ret ∨ ∃ nnn, i = .call nnn) ∧
    (t.dt ≠ s.dt → ∃ x, i = .setDelay x) ∧ (t.st ≠ s.st → ∃ x, i = .setSound x) ∧
    (t.disp ≠ s.disp ∨ t.redraw ≠ s.redraw → i = .clear ∨ ∃ x y n, i = .draw x y n) ∧
    (t.draws ≠ s.draws → ∃ x nn, i = .random x nn)

/-- A flag value is always 0 or 1: an instruction that writes VF as a flag leaves 0 or 1 in it, unless it is a DRAW that
a warning (in the history, log entry 7) skipped, which leaves VF alone (the spec's decision D7). That OR, AND and XOR
are no flag writers is D29, that the flag is written last D9. -/
def Obligations.FlagIsAlwaysABit : Prop :=
  ∀ (i : Instr) (s t : State), i.writesFlag = true → exec i s = .next t →
    t.getV 0xF = 0x00 ∨ t.getV 0xF = 0x01 ∨
    ∃ x y n, i = .draw x y n ∧ t = { s with history := .warning (.drawBounds s.i n) :: s.history }

/-- Errors are precise (the spec's decisions D4, D5): an instruction that latches an error is a RETURN on an empty stack
or a CALL on a full one, and it has changed nothing but the latch; in particular `pc` is where the step's advance put
it. The event in the history, with that `pc`, is log entries 7 and 18. The error's code is D18; that an error is a next
state is log entry 12. -/
def Obligations.ErrorsArePrecise : Prop :=
  ∀ (i : Instr) (s t : State), s.err = .none → s.stack.length ≤ s.cfg.stackDepth → exec i s = .next t →
    t.err ≠ .none →
    t = { s with err := t.err, history := .error t.err s.pc :: s.history } ∧
    ((i = .ret ∧ s.stack = [] ∧ t.err = .emptyStack) ∨
     (∃ nnn, i = .call nnn ∧ s.stack.length = s.cfg.stackDepth ∧ t.err = .stackOverflow))

/-- A latched error is written once between two resets, and a halted core is frozen (the spec's decision D5): whatever
transition comes next but a reset, nothing changes but what ticks and host operations write: the two timers, REDRAW, the
key latches, the mark of `Initialize` and the beep level, and the model's own agenda and history. So the error,
registers, `I`, `pc`, the stack, the display, the memory, the configuration and RATE_HZ stay. A core that a step has
halted is marked as started (log entry 17), so a ROM load is refused (log entry 11). What ticks and host operations may
write is R230 with D13 and D32; that an error is a next state is log entry 12. -/
def Obligations.HaltedCoreIsFrozen : Prop :=
  ∀ s t : State, s.Halted → s.started = true → step s = .next t →
    (∃ a b rate, s.nextTransition = .reset a b rate) ∨
    t = { s with dt := t.dt, st := t.st, redraw := t.redraw, key := t.key, timersRunning := t.timersRunning,
                 beep := t.beep, agenda := t.agenda, history := t.history }

/-- A warning is all that its instruction does: an instruction that emits one, into the history (log entry 7), has
changed nothing else, and it is one of the four with their bounds condition (the spec's decision D7 for DRAW). The
bounds are tested on the unreduced sums (D12); the warnings' kinds and payloads are D18. -/
def Obligations.WarningsSkipTheWholeInstruction : Prop :=
  ∀ (i : Instr) (s t : State) (w : Warning), exec i s = .next t → t.history = .warning w :: s.history →
    t = { s with history := .warning w :: s.history } ∧
    ((∃ x, i = .storeBcd x ∧ w = .bcdBounds s.i ∧ 0xFFF < s.i.toNat + 2) ∨
     (∃ x, i = .regDump x ∧ w = .dumpBounds s.i x ∧ 0xFFF < s.i.toNat + x.toNat) ∨
     (∃ x, i = .regLoad x ∧ w = .loadBounds s.i x ∧ 0xFFF < s.i.toNat + x.toNat) ∨
     (∃ x y n, i = .draw x y n ∧ w = .drawBounds s.i n ∧ 0 < n.toNat ∧ 0xFFF < s.i.toNat + n.toNat - 1))

/-- What a program cannot observe does not influence it: two states that differ only in REDRAW, RATE_HZ, the beep level
(log entry 13), the marks of the host's operations (17), the agenda (6) and the history (7) give next states that differ
only there. For RANDOM this compares two runs with one draw count, so with one byte (log entry 8). REDRAW as the host's
alone is R28 with the spec's decision D17; the warnings in the history are D7 and D18. -/
def Obligations.HiddenStateIsUnobservable : Prop :=
  ∀ (i : Instr) (s u t : State), s.SameToProgram u → exec i s = .next t →
    ∃ w : State, exec i u = .next w ∧ t.SameToProgram w

/-- The configuration is held: no transition changes PC_RESET, FONT or STACK_DEPTH, and none but a reset changes the
dialect flags or RATE_HZ, which a reset sets to the supplied values (a rate of at most 0 becomes 700). That PC_RESET,
STACK_DEPTH and FONT are parameters is the spec's decisions D1, D4, D16; that a reset keeps them is log entry 14. -/
def Obligations.ConfigurationIsHeld : Prop :=
  ∀ s t : State, step s = .next t →
    t.cfg = { s.cfg with shiftUsesY := t.cfg.shiftUsesY, jumpUsesV0 := t.cfg.jumpUsesV0 } ∧
    ((t.cfg = s.cfg ∧ t.rateHz = s.rateHz) ∨
     ∃ a b rate, s.nextTransition = .reset a b rate ∧ t.cfg.shiftUsesY = a ∧ t.cfg.jumpUsesV0 = b ∧
       t.rateHz = if rate ≤ 0 then 700 else rate)

/-! ## The invariant -/

/-- The invariant holds of the state after reset, and of every freshly constructed core whose PC_RESET is at most
`0x10FE`. The bound on PC_RESET is the model's (log entry 3; the spec's decision D1), STACK_DEPTH and ERR are D4 and D5;
the mark of a first step and the beep level are log entries 17 and 13. -/
def Obligations.InvariantAtReset : Prop :=
  State.reset.Inv ∧ ∀ (c : Config) (rate : Int), c.pcReset.toNat ≤ 0x10FE → (State.construct c rate).Inv

/-- Every transition of every agent keeps the invariant: the memory stays canonical and inside its 4096 cells, the stack
within its depth and holding only addresses after a CALL, `pc` at most `0x10FE` (given that PC_RESET is, log entry 3),
the rate positive, a latched error with its cause on a core that has stepped (log entry 17), no beep level before
Initialize (log entry 13). The depth is the spec's decision D4, the latch D5, the fetch error D6; that an error is a
next state is log entry 12. -/
def Obligations.EveryTransitionKeepsInvariant : Prop :=
  ∀ s t : State, s.Inv → step s = .next t → t.Inv
end

