-- ==== Sys2Proof/Laws/Codec.lean ====
section
/-! SUPPORT. The codec: the fields of an assembled word, and a word from its fields. -/

namespace Sys2Proof

theorem fieldOp_toNat (w : Word) : (fieldOp w).toNat = w.toNat / 4096 := by
  have := w.isLt
  simp [fieldOp, Nat.shiftRight_eq_div_pow]; omega

theorem fieldX_toNat (w : Word) : (fieldX w).toNat = w.toNat / 256 % 16 := by
  simp [fieldX, Nat.shiftRight_eq_div_pow]

theorem fieldY_toNat (w : Word) : (fieldY w).toNat = w.toNat / 16 % 16 := by
  simp [fieldY, Nat.shiftRight_eq_div_pow]

theorem fieldN_toNat (w : Word) : (fieldN w).toNat = w.toNat % 16 := by
  simp [fieldN]

theorem fieldNN_toNat (w : Word) : (fieldNN w).toNat = w.toNat % 256 := by
  simp [fieldNN]

theorem fieldNNN_toNat (w : Word) : (fieldNNN w).toNat = w.toNat % 4096 := by
  simp [fieldNNN]

theorem highByte_toNat (w : Word) : (highByte w).toNat = w.toNat / 256 := by
  have := w.isLt
  simp [highByte, Nat.shiftRight_eq_div_pow]; omega

theorem lowByte_toNat (w : Word) : (lowByte w).toNat = w.toNat % 256 := by
  simp [lowByte]

theorem toNat_append_add {m n : Nat} (a : BitVec m) (b : BitVec n) : (a ++ b).toNat = a.toNat * 2 ^ n + b.toNat := by
  rw [BitVec.toNat_append, ← Nat.shiftLeft_add_eq_or_of_lt b.isLt, Nat.shiftLeft_eq]

theorem packXYN_toNat (op x y n : Nibble) :
    (packXYN op x y n).toNat = op.toNat * 4096 + x.toNat * 256 + y.toNat * 16 + n.toNat := by
  rw [packXYN, toNat_append_add, toNat_append_add, toNat_append_add]; omega

theorem packXNN_toNat (op x : Nibble) (nn : Byte) :
    (packXNN op x nn).toNat = op.toNat * 4096 + x.toNat * 256 + nn.toNat := by
  rw [packXNN, toNat_append_add, toNat_append_add]; omega

theorem packNNN_toNat (op : Nibble) (nnn : Addr) : (packNNN op nnn).toNat = op.toNat * 4096 + nnn.toNat := by
  rw [packNNN, toNat_append_add]; rfl

theorem wordOfBytes_toNat (hi lo : Byte) : (wordOfBytes hi lo).toNat = hi.toNat * 256 + lo.toNat := by
  rw [wordOfBytes, toNat_append_add]; rfl

/-- Laying a word out in bytes and reading it back gives the word. -/
theorem wordOfBytes_bytes (w : Word) : wordOfBytes (highByte w) (lowByte w) = w := by
  apply BitVec.eq_of_toNat_eq
  rw [wordOfBytes_toNat, highByte_toNat, lowByte_toNat]; omega

@[simp] theorem fieldOp_packXYN (op x y n : Nibble) : fieldOp (packXYN op x y n) = op := by
  apply BitVec.eq_of_toNat_eq; rw [fieldOp_toNat, packXYN_toNat]; omega
@[simp] theorem fieldX_packXYN (op x y n : Nibble) : fieldX (packXYN op x y n) = x := by
  apply BitVec.eq_of_toNat_eq; rw [fieldX_toNat, packXYN_toNat]; omega
@[simp] theorem fieldY_packXYN (op x y n : Nibble) : fieldY (packXYN op x y n) = y := by
  apply BitVec.eq_of_toNat_eq; rw [fieldY_toNat, packXYN_toNat]; omega
@[simp] theorem fieldN_packXYN (op x y n : Nibble) : fieldN (packXYN op x y n) = n := by
  apply BitVec.eq_of_toNat_eq; rw [fieldN_toNat, packXYN_toNat]; omega
@[simp] theorem fieldOp_packXNN (op x : Nibble) (nn : Byte) : fieldOp (packXNN op x nn) = op := by
  apply BitVec.eq_of_toNat_eq; rw [fieldOp_toNat, packXNN_toNat]; omega
@[simp] theorem fieldX_packXNN (op x : Nibble) (nn : Byte) : fieldX (packXNN op x nn) = x := by
  apply BitVec.eq_of_toNat_eq; rw [fieldX_toNat, packXNN_toNat]; omega
@[simp] theorem fieldNN_packXNN (op x : Nibble) (nn : Byte) : fieldNN (packXNN op x nn) = nn := by
  apply BitVec.eq_of_toNat_eq; rw [fieldNN_toNat, packXNN_toNat]; omega
@[simp] theorem fieldOp_packNNN (op : Nibble) (nnn : Addr) : fieldOp (packNNN op nnn) = op := by
  apply BitVec.eq_of_toNat_eq; rw [fieldOp_toNat, packNNN_toNat]; omega
@[simp] theorem fieldNNN_packNNN (op : Nibble) (nnn : Addr) : fieldNNN (packNNN op nnn) = nnn := by
  apply BitVec.eq_of_toNat_eq; rw [fieldNNN_toNat, packNNN_toNat]; omega
@[simp] theorem fieldX_packNNN (op : Nibble) (nnn : Addr) : fieldX (packNNN op nnn) = nnn.extractLsb' 8 4 := by
  apply BitVec.eq_of_toNat_eq
  rw [fieldX_toNat, packNNN_toNat]
  simp [Nat.shiftRight_eq_div_pow]; omega

/-- A word is put together from its fields. -/
theorem packXYN_fields (w : Word) : packXYN (fieldOp w) (fieldX w) (fieldY w) (fieldN w) = w := by
  apply BitVec.eq_of_toNat_eq
  rw [packXYN_toNat, fieldOp_toNat, fieldX_toNat, fieldY_toNat, fieldN_toNat]; omega

theorem packXNN_fields (w : Word) : packXNN (fieldOp w) (fieldX w) (fieldNN w) = w := by
  apply BitVec.eq_of_toNat_eq
  rw [packXNN_toNat, fieldOp_toNat, fieldX_toNat, fieldNN_toNat]; omega

theorem packNNN_fields (w : Word) : packNNN (fieldOp w) (fieldNNN w) = w := by
  apply BitVec.eq_of_toNat_eq
  rw [packNNN_toNat, fieldOp_toNat, fieldNNN_toNat]; omega

/-- The words of the statements are those of the encoder. -/
theorem wordXYN_eq (op x y n : Nibble) : wordXYN op x y n = packXYN op x y n := by
  apply BitVec.eq_of_toNat_eq
  rw [packXYN_toNat, wordXYN, BitVec.toNat_ofNat]; omega

theorem wordXNN_eq (op x : Nibble) (nn : Byte) : wordXNN op x nn = packXNN op x nn := by
  apply BitVec.eq_of_toNat_eq
  rw [packXNN_toNat, wordXNN, BitVec.toNat_ofNat]; omega

theorem wordNNN_eq (op : Nibble) (nnn : Addr) : wordNNN op nnn = packNNN op nnn := by
  apply BitVec.eq_of_toNat_eq
  rw [packNNN_toNat, wordNNN, BitVec.toNat_ofNat]; omega

/-- No two rows of the opcode table overlap (spec/30_encoding.md R73): two different rows differ in a bit both fix. -/
theorem opcodeTable_disjoint :
    opcodeTable.Pairwise fun r q => (r.bits ^^^ q.bits) &&& (r.mask &&& q.mask) ≠ 0 := by decide

theorem opcodeTable_length : opcodeTable.length = 34 := by decide

end Sys2Proof
end

