-- ==== Sys2Proof/Laws/State.lean ====
section
/-! SUPPORT. One lemma per field per update of the state, each true by definition, so that no later proof unfolds an
update. -/

namespace Sys2Proof.Machine.State

variable (s : State)

/-! ## `setV` -/

@[simp] theorem setV_v (x : Nibble) (b : Byte) : (s.setV x b).v = s.v.set x.toNat b x.isLt := rfl
@[simp] theorem setV_i (x : Nibble) (b : Byte) : (s.setV x b).i = s.i := rfl
@[simp] theorem setV_pc (x : Nibble) (b : Byte) : (s.setV x b).pc = s.pc := rfl
@[simp] theorem setV_stack (x : Nibble) (b : Byte) : (s.setV x b).stack = s.stack := rfl
@[simp] theorem setV_dt (x : Nibble) (b : Byte) : (s.setV x b).dt = s.dt := rfl
@[simp] theorem setV_st (x : Nibble) (b : Byte) : (s.setV x b).st = s.st := rfl
@[simp] theorem setV_disp (x : Nibble) (b : Byte) : (s.setV x b).disp = s.disp := rfl
@[simp] theorem setV_redraw (x : Nibble) (b : Byte) : (s.setV x b).redraw = s.redraw := rfl
@[simp] theorem setV_key (x : Nibble) (b : Byte) : (s.setV x b).key = s.key := rfl
@[simp] theorem setV_err (x : Nibble) (b : Byte) : (s.setV x b).err = s.err := rfl
@[simp] theorem setV_mem (x : Nibble) (b : Byte) : (s.setV x b).mem = s.mem := rfl
@[simp] theorem setV_cfg (x : Nibble) (b : Byte) : (s.setV x b).cfg = s.cfg := rfl
@[simp] theorem setV_rateHz (x : Nibble) (b : Byte) : (s.setV x b).rateHz = s.rateHz := rfl
@[simp] theorem setV_timersRunning (x : Nibble) (b : Byte) : (s.setV x b).timersRunning = s.timersRunning := rfl
@[simp] theorem setV_started (x : Nibble) (b : Byte) : (s.setV x b).started = s.started := rfl
@[simp] theorem setV_beep (x : Nibble) (b : Byte) : (s.setV x b).beep = s.beep := rfl
@[simp] theorem setV_agenda (x : Nibble) (b : Byte) : (s.setV x b).agenda = s.agenda := rfl
@[simp] theorem setV_history (x : Nibble) (b : Byte) : (s.setV x b).history = s.history := rfl
@[simp] theorem setV_draws (x : Nibble) (b : Byte) : (s.setV x b).draws = s.draws := rfl

/-! ## `setVF` -/

@[simp] theorem setVF_v (b : Byte) : (s.setVF b).v = s.v.set 15 b := rfl
@[simp] theorem setVF_i (b : Byte) : (s.setVF b).i = s.i := rfl
@[simp] theorem setVF_pc (b : Byte) : (s.setVF b).pc = s.pc := rfl
@[simp] theorem setVF_stack (b : Byte) : (s.setVF b).stack = s.stack := rfl
@[simp] theorem setVF_dt (b : Byte) : (s.setVF b).dt = s.dt := rfl
@[simp] theorem setVF_st (b : Byte) : (s.setVF b).st = s.st := rfl
@[simp] theorem setVF_disp (b : Byte) : (s.setVF b).disp = s.disp := rfl
@[simp] theorem setVF_redraw (b : Byte) : (s.setVF b).redraw = s.redraw := rfl
@[simp] theorem setVF_key (b : Byte) : (s.setVF b).key = s.key := rfl
@[simp] theorem setVF_err (b : Byte) : (s.setVF b).err = s.err := rfl
@[simp] theorem setVF_mem (b : Byte) : (s.setVF b).mem = s.mem := rfl
@[simp] theorem setVF_cfg (b : Byte) : (s.setVF b).cfg = s.cfg := rfl
@[simp] theorem setVF_rateHz (b : Byte) : (s.setVF b).rateHz = s.rateHz := rfl
@[simp] theorem setVF_timersRunning (b : Byte) : (s.setVF b).timersRunning = s.timersRunning := rfl
@[simp] theorem setVF_started (b : Byte) : (s.setVF b).started = s.started := rfl
@[simp] theorem setVF_beep (b : Byte) : (s.setVF b).beep = s.beep := rfl
@[simp] theorem setVF_agenda (b : Byte) : (s.setVF b).agenda = s.agenda := rfl
@[simp] theorem setVF_history (b : Byte) : (s.setVF b).history = s.history := rfl
@[simp] theorem setVF_draws (b : Byte) : (s.setVF b).draws = s.draws := rfl

/-! ## `setVThenFlag` -/

@[simp] theorem setVThenFlag_v (x : Nibble) (r f : Byte) : (s.setVThenFlag x r f).v = (s.v.set x.toNat r x.isLt).set 15 f := rfl
@[simp] theorem setVThenFlag_i (x : Nibble) (r f : Byte) : (s.setVThenFlag x r f).i = s.i := rfl
@[simp] theorem setVThenFlag_pc (x : Nibble) (r f : Byte) : (s.setVThenFlag x r f).pc = s.pc := rfl
@[simp] theorem setVThenFlag_stack (x : Nibble) (r f : Byte) : (s.setVThenFlag x r f).stack = s.stack := rfl
@[simp] theorem setVThenFlag_dt (x : Nibble) (r f : Byte) : (s.setVThenFlag x r f).dt = s.dt := rfl
@[simp] theorem setVThenFlag_st (x : Nibble) (r f : Byte) : (s.setVThenFlag x r f).st = s.st := rfl
@[simp] theorem setVThenFlag_disp (x : Nibble) (r f : Byte) : (s.setVThenFlag x r f).disp = s.disp := rfl
@[simp] theorem setVThenFlag_redraw (x : Nibble) (r f : Byte) : (s.setVThenFlag x r f).redraw = s.redraw := rfl
@[simp] theorem setVThenFlag_key (x : Nibble) (r f : Byte) : (s.setVThenFlag x r f).key = s.key := rfl
@[simp] theorem setVThenFlag_err (x : Nibble) (r f : Byte) : (s.setVThenFlag x r f).err = s.err := rfl
@[simp] theorem setVThenFlag_mem (x : Nibble) (r f : Byte) : (s.setVThenFlag x r f).mem = s.mem := rfl
@[simp] theorem setVThenFlag_cfg (x : Nibble) (r f : Byte) : (s.setVThenFlag x r f).cfg = s.cfg := rfl
@[simp] theorem setVThenFlag_rateHz (x : Nibble) (r f : Byte) : (s.setVThenFlag x r f).rateHz = s.rateHz := rfl
@[simp] theorem setVThenFlag_timersRunning (x : Nibble) (r f : Byte) : (s.setVThenFlag x r f).timersRunning = s.timersRunning := rfl
@[simp] theorem setVThenFlag_started (x : Nibble) (r f : Byte) : (s.setVThenFlag x r f).started = s.started := rfl
@[simp] theorem setVThenFlag_beep (x : Nibble) (r f : Byte) : (s.setVThenFlag x r f).beep = s.beep := rfl
@[simp] theorem setVThenFlag_agenda (x : Nibble) (r f : Byte) : (s.setVThenFlag x r f).agenda = s.agenda := rfl
@[simp] theorem setVThenFlag_history (x : Nibble) (r f : Byte) : (s.setVThenFlag x r f).history = s.history := rfl
@[simp] theorem setVThenFlag_draws (x : Nibble) (r f : Byte) : (s.setVThenFlag x r f).draws = s.draws := rfl

/-! ## `setI` -/

@[simp] theorem setI_v (w : Word) : (s.setI w).v = s.v := rfl
@[simp] theorem setI_i (w : Word) : (s.setI w).i = w := rfl
@[simp] theorem setI_pc (w : Word) : (s.setI w).pc = s.pc := rfl
@[simp] theorem setI_stack (w : Word) : (s.setI w).stack = s.stack := rfl
@[simp] theorem setI_dt (w : Word) : (s.setI w).dt = s.dt := rfl
@[simp] theorem setI_st (w : Word) : (s.setI w).st = s.st := rfl
@[simp] theorem setI_disp (w : Word) : (s.setI w).disp = s.disp := rfl
@[simp] theorem setI_redraw (w : Word) : (s.setI w).redraw = s.redraw := rfl
@[simp] theorem setI_key (w : Word) : (s.setI w).key = s.key := rfl
@[simp] theorem setI_err (w : Word) : (s.setI w).err = s.err := rfl
@[simp] theorem setI_mem (w : Word) : (s.setI w).mem = s.mem := rfl
@[simp] theorem setI_cfg (w : Word) : (s.setI w).cfg = s.cfg := rfl
@[simp] theorem setI_rateHz (w : Word) : (s.setI w).rateHz = s.rateHz := rfl
@[simp] theorem setI_timersRunning (w : Word) : (s.setI w).timersRunning = s.timersRunning := rfl
@[simp] theorem setI_started (w : Word) : (s.setI w).started = s.started := rfl
@[simp] theorem setI_beep (w : Word) : (s.setI w).beep = s.beep := rfl
@[simp] theorem setI_agenda (w : Word) : (s.setI w).agenda = s.agenda := rfl
@[simp] theorem setI_history (w : Word) : (s.setI w).history = s.history := rfl
@[simp] theorem setI_draws (w : Word) : (s.setI w).draws = s.draws := rfl

/-! ## `setPc` -/

@[simp] theorem setPc_v (w : Word) : (s.setPc w).v = s.v := rfl
@[simp] theorem setPc_i (w : Word) : (s.setPc w).i = s.i := rfl
@[simp] theorem setPc_pc (w : Word) : (s.setPc w).pc = w := rfl
@[simp] theorem setPc_stack (w : Word) : (s.setPc w).stack = s.stack := rfl
@[simp] theorem setPc_dt (w : Word) : (s.setPc w).dt = s.dt := rfl
@[simp] theorem setPc_st (w : Word) : (s.setPc w).st = s.st := rfl
@[simp] theorem setPc_disp (w : Word) : (s.setPc w).disp = s.disp := rfl
@[simp] theorem setPc_redraw (w : Word) : (s.setPc w).redraw = s.redraw := rfl
@[simp] theorem setPc_key (w : Word) : (s.setPc w).key = s.key := rfl
@[simp] theorem setPc_err (w : Word) : (s.setPc w).err = s.err := rfl
@[simp] theorem setPc_mem (w : Word) : (s.setPc w).mem = s.mem := rfl
@[simp] theorem setPc_cfg (w : Word) : (s.setPc w).cfg = s.cfg := rfl
@[simp] theorem setPc_rateHz (w : Word) : (s.setPc w).rateHz = s.rateHz := rfl
@[simp] theorem setPc_timersRunning (w : Word) : (s.setPc w).timersRunning = s.timersRunning := rfl
@[simp] theorem setPc_started (w : Word) : (s.setPc w).started = s.started := rfl
@[simp] theorem setPc_beep (w : Word) : (s.setPc w).beep = s.beep := rfl
@[simp] theorem setPc_agenda (w : Word) : (s.setPc w).agenda = s.agenda := rfl
@[simp] theorem setPc_history (w : Word) : (s.setPc w).history = s.history := rfl
@[simp] theorem setPc_draws (w : Word) : (s.setPc w).draws = s.draws := rfl

/-! ## `advance` -/

@[simp] theorem advance_v : (s.advance).v = s.v := rfl
@[simp] theorem advance_i : (s.advance).i = s.i := rfl
@[simp] theorem advance_pc : (s.advance).pc = trunc16 (s.pc.toNat + 2) := rfl
@[simp] theorem advance_stack : (s.advance).stack = s.stack := rfl
@[simp] theorem advance_dt : (s.advance).dt = s.dt := rfl
@[simp] theorem advance_st : (s.advance).st = s.st := rfl
@[simp] theorem advance_disp : (s.advance).disp = s.disp := rfl
@[simp] theorem advance_redraw : (s.advance).redraw = s.redraw := rfl
@[simp] theorem advance_key : (s.advance).key = s.key := rfl
@[simp] theorem advance_err : (s.advance).err = s.err := rfl
@[simp] theorem advance_mem : (s.advance).mem = s.mem := rfl
@[simp] theorem advance_cfg : (s.advance).cfg = s.cfg := rfl
@[simp] theorem advance_rateHz : (s.advance).rateHz = s.rateHz := rfl
@[simp] theorem advance_timersRunning : (s.advance).timersRunning = s.timersRunning := rfl
@[simp] theorem advance_started : (s.advance).started = s.started := rfl
@[simp] theorem advance_beep : (s.advance).beep = s.beep := rfl
@[simp] theorem advance_agenda : (s.advance).agenda = s.agenda := rfl
@[simp] theorem advance_history : (s.advance).history = s.history := rfl
@[simp] theorem advance_draws : (s.advance).draws = s.draws := rfl

/-! ## `rewind` -/

@[simp] theorem rewind_v : (s.rewind).v = s.v := rfl
@[simp] theorem rewind_i : (s.rewind).i = s.i := rfl
@[simp] theorem rewind_pc : (s.rewind).pc = s.pc - 2#16 := rfl
@[simp] theorem rewind_stack : (s.rewind).stack = s.stack := rfl
@[simp] theorem rewind_dt : (s.rewind).dt = s.dt := rfl
@[simp] theorem rewind_st : (s.rewind).st = s.st := rfl
@[simp] theorem rewind_disp : (s.rewind).disp = s.disp := rfl
@[simp] theorem rewind_redraw : (s.rewind).redraw = s.redraw := rfl
@[simp] theorem rewind_key : (s.rewind).key = s.key := rfl
@[simp] theorem rewind_err : (s.rewind).err = s.err := rfl
@[simp] theorem rewind_mem : (s.rewind).mem = s.mem := rfl
@[simp] theorem rewind_cfg : (s.rewind).cfg = s.cfg := rfl
@[simp] theorem rewind_rateHz : (s.rewind).rateHz = s.rateHz := rfl
@[simp] theorem rewind_timersRunning : (s.rewind).timersRunning = s.timersRunning := rfl
@[simp] theorem rewind_started : (s.rewind).started = s.started := rfl
@[simp] theorem rewind_beep : (s.rewind).beep = s.beep := rfl
@[simp] theorem rewind_agenda : (s.rewind).agenda = s.agenda := rfl
@[simp] theorem rewind_history : (s.rewind).history = s.history := rfl
@[simp] theorem rewind_draws : (s.rewind).draws = s.draws := rfl

/-! ## `setDT` -/

@[simp] theorem setDT_v (b : Byte) : (s.setDT b).v = s.v := rfl
@[simp] theorem setDT_i (b : Byte) : (s.setDT b).i = s.i := rfl
@[simp] theorem setDT_pc (b : Byte) : (s.setDT b).pc = s.pc := rfl
@[simp] theorem setDT_stack (b : Byte) : (s.setDT b).stack = s.stack := rfl
@[simp] theorem setDT_dt (b : Byte) : (s.setDT b).dt = b := rfl
@[simp] theorem setDT_st (b : Byte) : (s.setDT b).st = s.st := rfl
@[simp] theorem setDT_disp (b : Byte) : (s.setDT b).disp = s.disp := rfl
@[simp] theorem setDT_redraw (b : Byte) : (s.setDT b).redraw = s.redraw := rfl
@[simp] theorem setDT_key (b : Byte) : (s.setDT b).key = s.key := rfl
@[simp] theorem setDT_err (b : Byte) : (s.setDT b).err = s.err := rfl
@[simp] theorem setDT_mem (b : Byte) : (s.setDT b).mem = s.mem := rfl
@[simp] theorem setDT_cfg (b : Byte) : (s.setDT b).cfg = s.cfg := rfl
@[simp] theorem setDT_rateHz (b : Byte) : (s.setDT b).rateHz = s.rateHz := rfl
@[simp] theorem setDT_timersRunning (b : Byte) : (s.setDT b).timersRunning = s.timersRunning := rfl
@[simp] theorem setDT_started (b : Byte) : (s.setDT b).started = s.started := rfl
@[simp] theorem setDT_beep (b : Byte) : (s.setDT b).beep = s.beep := rfl
@[simp] theorem setDT_agenda (b : Byte) : (s.setDT b).agenda = s.agenda := rfl
@[simp] theorem setDT_history (b : Byte) : (s.setDT b).history = s.history := rfl
@[simp] theorem setDT_draws (b : Byte) : (s.setDT b).draws = s.draws := rfl

/-! ## `setST` -/

@[simp] theorem setST_v (b : Byte) : (s.setST b).v = s.v := rfl
@[simp] theorem setST_i (b : Byte) : (s.setST b).i = s.i := rfl
@[simp] theorem setST_pc (b : Byte) : (s.setST b).pc = s.pc := rfl
@[simp] theorem setST_stack (b : Byte) : (s.setST b).stack = s.stack := rfl
@[simp] theorem setST_dt (b : Byte) : (s.setST b).dt = s.dt := rfl
@[simp] theorem setST_st (b : Byte) : (s.setST b).st = b := rfl
@[simp] theorem setST_disp (b : Byte) : (s.setST b).disp = s.disp := rfl
@[simp] theorem setST_redraw (b : Byte) : (s.setST b).redraw = s.redraw := rfl
@[simp] theorem setST_key (b : Byte) : (s.setST b).key = s.key := rfl
@[simp] theorem setST_err (b : Byte) : (s.setST b).err = s.err := rfl
@[simp] theorem setST_mem (b : Byte) : (s.setST b).mem = s.mem := rfl
@[simp] theorem setST_cfg (b : Byte) : (s.setST b).cfg = s.cfg := rfl
@[simp] theorem setST_rateHz (b : Byte) : (s.setST b).rateHz = s.rateHz := rfl
@[simp] theorem setST_timersRunning (b : Byte) : (s.setST b).timersRunning = s.timersRunning := rfl
@[simp] theorem setST_started (b : Byte) : (s.setST b).started = s.started := rfl
@[simp] theorem setST_beep (b : Byte) : (s.setST b).beep = s.beep := rfl
@[simp] theorem setST_agenda (b : Byte) : (s.setST b).agenda = s.agenda := rfl
@[simp] theorem setST_history (b : Byte) : (s.setST b).history = s.history := rfl
@[simp] theorem setST_draws (b : Byte) : (s.setST b).draws = s.draws := rfl

/-! ## `emit` -/

@[simp] theorem emit_v (o : Output) : (s.emit o).v = s.v := rfl
@[simp] theorem emit_i (o : Output) : (s.emit o).i = s.i := rfl
@[simp] theorem emit_pc (o : Output) : (s.emit o).pc = s.pc := rfl
@[simp] theorem emit_stack (o : Output) : (s.emit o).stack = s.stack := rfl
@[simp] theorem emit_dt (o : Output) : (s.emit o).dt = s.dt := rfl
@[simp] theorem emit_st (o : Output) : (s.emit o).st = s.st := rfl
@[simp] theorem emit_disp (o : Output) : (s.emit o).disp = s.disp := rfl
@[simp] theorem emit_redraw (o : Output) : (s.emit o).redraw = s.redraw := rfl
@[simp] theorem emit_key (o : Output) : (s.emit o).key = s.key := rfl
@[simp] theorem emit_err (o : Output) : (s.emit o).err = s.err := rfl
@[simp] theorem emit_mem (o : Output) : (s.emit o).mem = s.mem := rfl
@[simp] theorem emit_cfg (o : Output) : (s.emit o).cfg = s.cfg := rfl
@[simp] theorem emit_rateHz (o : Output) : (s.emit o).rateHz = s.rateHz := rfl
@[simp] theorem emit_timersRunning (o : Output) : (s.emit o).timersRunning = s.timersRunning := rfl
@[simp] theorem emit_started (o : Output) : (s.emit o).started = s.started := rfl
@[simp] theorem emit_beep (o : Output) : (s.emit o).beep = s.beep := rfl
@[simp] theorem emit_agenda (o : Output) : (s.emit o).agenda = s.agenda := rfl
@[simp] theorem emit_history (o : Output) : (s.emit o).history = o :: s.history := rfl
@[simp] theorem emit_draws (o : Output) : (s.emit o).draws = s.draws := rfl

/-! ## `warn` -/

@[simp] theorem warn_v (w : Warning) : (s.warn w).v = s.v := rfl
@[simp] theorem warn_i (w : Warning) : (s.warn w).i = s.i := rfl
@[simp] theorem warn_pc (w : Warning) : (s.warn w).pc = s.pc := rfl
@[simp] theorem warn_stack (w : Warning) : (s.warn w).stack = s.stack := rfl
@[simp] theorem warn_dt (w : Warning) : (s.warn w).dt = s.dt := rfl
@[simp] theorem warn_st (w : Warning) : (s.warn w).st = s.st := rfl
@[simp] theorem warn_disp (w : Warning) : (s.warn w).disp = s.disp := rfl
@[simp] theorem warn_redraw (w : Warning) : (s.warn w).redraw = s.redraw := rfl
@[simp] theorem warn_key (w : Warning) : (s.warn w).key = s.key := rfl
@[simp] theorem warn_err (w : Warning) : (s.warn w).err = s.err := rfl
@[simp] theorem warn_mem (w : Warning) : (s.warn w).mem = s.mem := rfl
@[simp] theorem warn_cfg (w : Warning) : (s.warn w).cfg = s.cfg := rfl
@[simp] theorem warn_rateHz (w : Warning) : (s.warn w).rateHz = s.rateHz := rfl
@[simp] theorem warn_timersRunning (w : Warning) : (s.warn w).timersRunning = s.timersRunning := rfl
@[simp] theorem warn_started (w : Warning) : (s.warn w).started = s.started := rfl
@[simp] theorem warn_beep (w : Warning) : (s.warn w).beep = s.beep := rfl
@[simp] theorem warn_agenda (w : Warning) : (s.warn w).agenda = s.agenda := rfl
@[simp] theorem warn_history (w : Warning) : (s.warn w).history = .warning w :: s.history := rfl
@[simp] theorem warn_draws (w : Warning) : (s.warn w).draws = s.draws := rfl

/-! ## `raise` -/

@[simp] theorem raise_v (e : ErrorCode) : (s.raise e).v = s.v := rfl
@[simp] theorem raise_i (e : ErrorCode) : (s.raise e).i = s.i := rfl
@[simp] theorem raise_pc (e : ErrorCode) : (s.raise e).pc = s.pc := rfl
@[simp] theorem raise_stack (e : ErrorCode) : (s.raise e).stack = s.stack := rfl
@[simp] theorem raise_dt (e : ErrorCode) : (s.raise e).dt = s.dt := rfl
@[simp] theorem raise_st (e : ErrorCode) : (s.raise e).st = s.st := rfl
@[simp] theorem raise_disp (e : ErrorCode) : (s.raise e).disp = s.disp := rfl
@[simp] theorem raise_redraw (e : ErrorCode) : (s.raise e).redraw = s.redraw := rfl
@[simp] theorem raise_key (e : ErrorCode) : (s.raise e).key = s.key := rfl
@[simp] theorem raise_err (e : ErrorCode) : (s.raise e).err = e := rfl
@[simp] theorem raise_mem (e : ErrorCode) : (s.raise e).mem = s.mem := rfl
@[simp] theorem raise_cfg (e : ErrorCode) : (s.raise e).cfg = s.cfg := rfl
@[simp] theorem raise_rateHz (e : ErrorCode) : (s.raise e).rateHz = s.rateHz := rfl
@[simp] theorem raise_timersRunning (e : ErrorCode) : (s.raise e).timersRunning = s.timersRunning := rfl
@[simp] theorem raise_started (e : ErrorCode) : (s.raise e).started = s.started := rfl
@[simp] theorem raise_beep (e : ErrorCode) : (s.raise e).beep = s.beep := rfl
@[simp] theorem raise_agenda (e : ErrorCode) : (s.raise e).agenda = s.agenda := rfl
@[simp] theorem raise_history (e : ErrorCode) : (s.raise e).history = .error e s.pc :: s.history := rfl
@[simp] theorem raise_draws (e : ErrorCode) : (s.raise e).draws = s.draws := rfl

/-! ## `drawn` -/

@[simp] theorem drawn_v : (s.drawn).v = s.v := rfl
@[simp] theorem drawn_i : (s.drawn).i = s.i := rfl
@[simp] theorem drawn_pc : (s.drawn).pc = s.pc := rfl
@[simp] theorem drawn_stack : (s.drawn).stack = s.stack := rfl
@[simp] theorem drawn_dt : (s.drawn).dt = s.dt := rfl
@[simp] theorem drawn_st : (s.drawn).st = s.st := rfl
@[simp] theorem drawn_disp : (s.drawn).disp = s.disp := rfl
@[simp] theorem drawn_redraw : (s.drawn).redraw = s.redraw := rfl
@[simp] theorem drawn_key : (s.drawn).key = s.key := rfl
@[simp] theorem drawn_err : (s.drawn).err = s.err := rfl
@[simp] theorem drawn_mem : (s.drawn).mem = s.mem := rfl
@[simp] theorem drawn_cfg : (s.drawn).cfg = s.cfg := rfl
@[simp] theorem drawn_rateHz : (s.drawn).rateHz = s.rateHz := rfl
@[simp] theorem drawn_timersRunning : (s.drawn).timersRunning = s.timersRunning := rfl
@[simp] theorem drawn_started : (s.drawn).started = s.started := rfl
@[simp] theorem drawn_beep : (s.drawn).beep = s.beep := rfl
@[simp] theorem drawn_agenda : (s.drawn).agenda = s.agenda := rfl
@[simp] theorem drawn_history : (s.drawn).history = s.history := rfl
@[simp] theorem drawn_draws : (s.drawn).draws = s.draws + 1 := rfl

/-! ## `markStarted` -/

@[simp] theorem markStarted_v : (s.markStarted).v = s.v := rfl
@[simp] theorem markStarted_i : (s.markStarted).i = s.i := rfl
@[simp] theorem markStarted_pc : (s.markStarted).pc = s.pc := rfl
@[simp] theorem markStarted_stack : (s.markStarted).stack = s.stack := rfl
@[simp] theorem markStarted_dt : (s.markStarted).dt = s.dt := rfl
@[simp] theorem markStarted_st : (s.markStarted).st = s.st := rfl
@[simp] theorem markStarted_disp : (s.markStarted).disp = s.disp := rfl
@[simp] theorem markStarted_redraw : (s.markStarted).redraw = s.redraw := rfl
@[simp] theorem markStarted_key : (s.markStarted).key = s.key := rfl
@[simp] theorem markStarted_err : (s.markStarted).err = s.err := rfl
@[simp] theorem markStarted_mem : (s.markStarted).mem = s.mem := rfl
@[simp] theorem markStarted_cfg : (s.markStarted).cfg = s.cfg := rfl
@[simp] theorem markStarted_rateHz : (s.markStarted).rateHz = s.rateHz := rfl
@[simp] theorem markStarted_timersRunning : (s.markStarted).timersRunning = s.timersRunning := rfl
@[simp] theorem markStarted_started : (s.markStarted).started = true := rfl
@[simp] theorem markStarted_beep : (s.markStarted).beep = s.beep := rfl
@[simp] theorem markStarted_agenda : (s.markStarted).agenda = s.agenda := rfl
@[simp] theorem markStarted_history : (s.markStarted).history = s.history := rfl
@[simp] theorem markStarted_draws : (s.markStarted).draws = s.draws := rfl

/-! ## `popAgenda` -/

@[simp] theorem popAgenda_v : (s.popAgenda).v = s.v := rfl
@[simp] theorem popAgenda_i : (s.popAgenda).i = s.i := rfl
@[simp] theorem popAgenda_pc : (s.popAgenda).pc = s.pc := rfl
@[simp] theorem popAgenda_stack : (s.popAgenda).stack = s.stack := rfl
@[simp] theorem popAgenda_dt : (s.popAgenda).dt = s.dt := rfl
@[simp] theorem popAgenda_st : (s.popAgenda).st = s.st := rfl
@[simp] theorem popAgenda_disp : (s.popAgenda).disp = s.disp := rfl
@[simp] theorem popAgenda_redraw : (s.popAgenda).redraw = s.redraw := rfl
@[simp] theorem popAgenda_key : (s.popAgenda).key = s.key := rfl
@[simp] theorem popAgenda_err : (s.popAgenda).err = s.err := rfl
@[simp] theorem popAgenda_mem : (s.popAgenda).mem = s.mem := rfl
@[simp] theorem popAgenda_cfg : (s.popAgenda).cfg = s.cfg := rfl
@[simp] theorem popAgenda_rateHz : (s.popAgenda).rateHz = s.rateHz := rfl
@[simp] theorem popAgenda_timersRunning : (s.popAgenda).timersRunning = s.timersRunning := rfl
@[simp] theorem popAgenda_started : (s.popAgenda).started = s.started := rfl
@[simp] theorem popAgenda_beep : (s.popAgenda).beep = s.beep := rfl
@[simp] theorem popAgenda_agenda : (s.popAgenda).agenda = s.agenda.tail := rfl
@[simp] theorem popAgenda_history : (s.popAgenda).history = s.history := rfl
@[simp] theorem popAgenda_draws : (s.popAgenda).draws = s.draws := rfl

/-! ## `keyUpdate` -/

@[simp] theorem keyUpdate_v (k : Nibble) (p : Bool) : (s.keyUpdate k p).v = s.v := rfl
@[simp] theorem keyUpdate_i (k : Nibble) (p : Bool) : (s.keyUpdate k p).i = s.i := rfl
@[simp] theorem keyUpdate_pc (k : Nibble) (p : Bool) : (s.keyUpdate k p).pc = s.pc := rfl
@[simp] theorem keyUpdate_stack (k : Nibble) (p : Bool) : (s.keyUpdate k p).stack = s.stack := rfl
@[simp] theorem keyUpdate_dt (k : Nibble) (p : Bool) : (s.keyUpdate k p).dt = s.dt := rfl
@[simp] theorem keyUpdate_st (k : Nibble) (p : Bool) : (s.keyUpdate k p).st = s.st := rfl
@[simp] theorem keyUpdate_disp (k : Nibble) (p : Bool) : (s.keyUpdate k p).disp = s.disp := rfl
@[simp] theorem keyUpdate_redraw (k : Nibble) (p : Bool) : (s.keyUpdate k p).redraw = s.redraw := rfl
@[simp] theorem keyUpdate_key (k : Nibble) (p : Bool) : (s.keyUpdate k p).key = s.key.set k.toNat p k.isLt := rfl
@[simp] theorem keyUpdate_err (k : Nibble) (p : Bool) : (s.keyUpdate k p).err = s.err := rfl
@[simp] theorem keyUpdate_mem (k : Nibble) (p : Bool) : (s.keyUpdate k p).mem = s.mem := rfl
@[simp] theorem keyUpdate_cfg (k : Nibble) (p : Bool) : (s.keyUpdate k p).cfg = s.cfg := rfl
@[simp] theorem keyUpdate_rateHz (k : Nibble) (p : Bool) : (s.keyUpdate k p).rateHz = s.rateHz := rfl
@[simp] theorem keyUpdate_timersRunning (k : Nibble) (p : Bool) : (s.keyUpdate k p).timersRunning = s.timersRunning := rfl
@[simp] theorem keyUpdate_started (k : Nibble) (p : Bool) : (s.keyUpdate k p).started = s.started := rfl
@[simp] theorem keyUpdate_beep (k : Nibble) (p : Bool) : (s.keyUpdate k p).beep = s.beep := rfl
@[simp] theorem keyUpdate_agenda (k : Nibble) (p : Bool) : (s.keyUpdate k p).agenda = s.agenda := rfl
@[simp] theorem keyUpdate_history (k : Nibble) (p : Bool) : (s.keyUpdate k p).history = s.history := rfl
@[simp] theorem keyUpdate_draws (k : Nibble) (p : Bool) : (s.keyUpdate k p).draws = s.draws := rfl

/-! ## `ticked` -/

@[simp] theorem ticked_v : (s.ticked).v = s.v := rfl
@[simp] theorem ticked_i : (s.ticked).i = s.i := rfl
@[simp] theorem ticked_pc : (s.ticked).pc = s.pc := rfl
@[simp] theorem ticked_stack : (s.ticked).stack = s.stack := rfl
@[simp] theorem ticked_dt : (s.ticked).dt = countDown s.dt := rfl
@[simp] theorem ticked_st : (s.ticked).st = countDown s.st := rfl
@[simp] theorem ticked_disp : (s.ticked).disp = s.disp := rfl
@[simp] theorem ticked_redraw : (s.ticked).redraw = s.redraw := rfl
@[simp] theorem ticked_key : (s.ticked).key = s.key := rfl
@[simp] theorem ticked_err : (s.ticked).err = s.err := rfl
@[simp] theorem ticked_mem : (s.ticked).mem = s.mem := rfl
@[simp] theorem ticked_cfg : (s.ticked).cfg = s.cfg := rfl
@[simp] theorem ticked_rateHz : (s.ticked).rateHz = s.rateHz := rfl
@[simp] theorem ticked_timersRunning : (s.ticked).timersRunning = s.timersRunning := rfl
@[simp] theorem ticked_started : (s.ticked).started = s.started := rfl
@[simp] theorem ticked_beep : (s.ticked).beep = decide (0 < s.st.toNat) := rfl
@[simp] theorem ticked_agenda : (s.ticked).agenda = s.agenda := rfl
@[simp] theorem ticked_history : (s.ticked).history = .beep (decide (0 < s.st.toNat)) :: s.history := rfl
@[simp] theorem ticked_draws : (s.ticked).draws = s.draws := rfl

/-! ## `skipIf` -/

/-- A skip writes `pc` and nothing else, whatever its condition. -/
theorem skipIf_eq (c : Bool) : s.skipIf c = { s with pc := if c then trunc16 (s.pc.toNat + 2) else s.pc } := by
  cases c <;> rfl

@[simp] theorem skipIf_v (c : Bool) : (s.skipIf c).v = s.v := by cases c <;> rfl
@[simp] theorem skipIf_i (c : Bool) : (s.skipIf c).i = s.i := by cases c <;> rfl
@[simp] theorem skipIf_pc (c : Bool) : (s.skipIf c).pc = if c then trunc16 (s.pc.toNat + 2) else s.pc := by
  cases c <;> rfl
@[simp] theorem skipIf_stack (c : Bool) : (s.skipIf c).stack = s.stack := by cases c <;> rfl
@[simp] theorem skipIf_dt (c : Bool) : (s.skipIf c).dt = s.dt := by cases c <;> rfl
@[simp] theorem skipIf_st (c : Bool) : (s.skipIf c).st = s.st := by cases c <;> rfl
@[simp] theorem skipIf_disp (c : Bool) : (s.skipIf c).disp = s.disp := by cases c <;> rfl
@[simp] theorem skipIf_redraw (c : Bool) : (s.skipIf c).redraw = s.redraw := by cases c <;> rfl
@[simp] theorem skipIf_key (c : Bool) : (s.skipIf c).key = s.key := by cases c <;> rfl
@[simp] theorem skipIf_err (c : Bool) : (s.skipIf c).err = s.err := by cases c <;> rfl
@[simp] theorem skipIf_mem (c : Bool) : (s.skipIf c).mem = s.mem := by cases c <;> rfl
@[simp] theorem skipIf_cfg (c : Bool) : (s.skipIf c).cfg = s.cfg := by cases c <;> rfl
@[simp] theorem skipIf_rateHz (c : Bool) : (s.skipIf c).rateHz = s.rateHz := by cases c <;> rfl
@[simp] theorem skipIf_timersRunning (c : Bool) : (s.skipIf c).timersRunning = s.timersRunning := by cases c <;> rfl
@[simp] theorem skipIf_started (c : Bool) : (s.skipIf c).started = s.started := by cases c <;> rfl
@[simp] theorem skipIf_beep (c : Bool) : (s.skipIf c).beep = s.beep := by cases c <;> rfl
@[simp] theorem skipIf_agenda (c : Bool) : (s.skipIf c).agenda = s.agenda := by cases c <;> rfl
@[simp] theorem skipIf_history (c : Bool) : (s.skipIf c).history = s.history := by cases c <;> rfl
@[simp] theorem skipIf_draws (c : Bool) : (s.skipIf c).draws = s.draws := by cases c <;> rfl

end Sys2Proof.Machine.State
end

