-- ==== Sys2Proof/Laws/Display.lean ====
section
/-! SUPPORT. The display operations: DRAW's loops (spec/45_display.md R181) as one exclusive-OR of the sprite's pixels,
and the collision as the existence of a lit cell under a sprite bit. -/

namespace Sys2Proof.Machine

/-- Two displays with the same cells are the same. -/
theorem Display.ext_get {d e : Display} (h : ∀ r c : Nat, r < 32 → c < 64 → d.get r c = e.get r c) : d = e := by
  apply Vector.ext
  intro r hr
  apply Vector.ext
  intro c hc
  have := h r c hr hc
  simpa [Display.get, hr, hc] using this

@[simp] theorem Display.get_blank (r c : Nat) : Display.blank.get r c = false := by
  simp [Display.get, Display.blank]

theorem Display.get_eq {d : Display} {r c : Nat} (hr : r < 32) (hc : c < 64) : d.get r c = d[r][c] := by
  simp [Display.get, hr, hc]

theorem Display.get_outside {d : Display} {r c : Nat} (h : ¬(r < 32 ∧ c < 64)) : d.get r c = false := by
  simp only [Display.get, dif_neg h]

/-- A cell after a cell write. -/
theorem Display.get_set (d : Display) (r c : Nat) (b : Bool) (r' c' : Nat) :
    (d.set r c b).get r' c' = if r < 32 ∧ c < 64 ∧ r' = r ∧ c' = c then b else d.get r' c' := by
  by_cases h : r < 32 ∧ c < 64
  · by_cases h' : r' < 32 ∧ c' < 64
    · simp only [Display.set, dif_pos h, Display.get, dif_pos h', Vector.getElem_set]
      by_cases hr : r = r'
      · subst hr
        by_cases hc : c = c'
        · simp [hc, h, h']
        · simp [hc, Ne.symm hc]
      · simp [hr, Ne.symm hr]
    · have : ¬(r < 32 ∧ c < 64 ∧ r' = r ∧ c' = c) := by
        rintro ⟨h1, h2, rfl, rfl⟩; exact h' ⟨h1, h2⟩
      rw [Display.get_outside h', Display.get_outside h', if_neg this]
  · have : ¬(r < 32 ∧ c < 64 ∧ r' = r ∧ c' = c) := fun k => h ⟨k.1, k.2.1⟩
    simp only [Display.set, dif_neg h, if_neg this]

/-- One pixel: its cell, if it is one of the grid, is exclusive-ORed with the sprite bit. -/
theorem Canvas.plot_get (k : Canvas) (row col : Nat) (bit : Bool) {r c : Nat} (hr : r < 32) (hc : c < 64) :
    (k.plot row col bit).disp.get r c = (k.disp.get r c ^^ (decide (r = row ∧ c = col) && bit)) := by
  unfold Canvas.plot
  split
  · simp only [Display.get_set]
    by_cases h : r = row ∧ c = col
    · obtain ⟨rfl, rfl⟩ := h
      simp [hr, hc]
    · have : ¬(row < 32 ∧ col < 64 ∧ r = row ∧ c = col) := fun k => h k.2.2
      rw [if_neg this, decide_eq_false h]
      simp
  · have : ¬(r = row ∧ c = col) := by omega
    rw [decide_eq_false this]
    simp

/-- One pixel: a collision is a sprite bit on a lit cell. -/
theorem Canvas.plot_collision (k : Canvas) (row col : Nat) (bit : Bool) :
    (k.plot row col bit).collision = (k.collision || (bit && k.disp.get row col)) := by
  unfold Canvas.plot
  split
  · rfl
  · rw [Display.get_outside (by omega)]
    simp

/-- Pixels of one row at distinct columns: cells. -/
theorem Canvas.plots_get (row x0 : Nat) (f : Nat → Bool) (js : List Nat) (hd : js.Nodup) (k : Canvas) {r c : Nat}
    (hr : r < 32) (hc : c < 64) :
    (js.foldl (fun k j => k.plot row (x0 + j) (f j)) k).disp.get r c =
      (k.disp.get r c ^^ (decide (r = row ∧ x0 ≤ c ∧ c - x0 ∈ js) && f (c - x0))) := by
  induction js generalizing k with
  | nil => simp
  | cons j js ih =>
    rw [List.nodup_cons] at hd
    rw [List.foldl_cons, ih hd.2, Canvas.plot_get _ _ _ _ hr hc]
    by_cases h : r = row ∧ c = x0 + j
    · obtain ⟨rfl, rfl⟩ := h
      have e : x0 + j - x0 = j := by omega
      simp [e, hd.1]
    · have : (r = row ∧ x0 ≤ c ∧ c - x0 ∈ j :: js) ↔ (r = row ∧ x0 ≤ c ∧ c - x0 ∈ js) := by
        simp only [List.mem_cons]
        constructor
        · rintro ⟨h1, h2, h3 | h3⟩
          · exact absurd ⟨h1, by omega⟩ h
          · exact ⟨h1, h2, h3⟩
        · rintro ⟨h1, h2, h3⟩
          exact ⟨h1, h2, .inr h3⟩
      simp only [decide_eq_false h, this]
      simp

/-- Pixels of one row at distinct columns inside the grid's rows: the collision. -/
theorem Canvas.plots_collision (row x0 : Nat) (f : Nat → Bool) (js : List Nat) (hd : js.Nodup) (k : Canvas) :
    (js.foldl (fun k j => k.plot row (x0 + j) (f j)) k).collision = true ↔
      k.collision = true ∨ ∃ j ∈ js, f j = true ∧ k.disp.get row (x0 + j) = true := by
  induction js generalizing k with
  | nil => simp
  | cons j js ih =>
    rw [List.nodup_cons] at hd
    rw [List.foldl_cons, ih hd.2, Canvas.plot_collision]
    have same : ∀ i ∈ js, (k.plot row (x0 + j) (f j)).disp.get row (x0 + i) = k.disp.get row (x0 + i) := by
      intro i hi
      by_cases hg : row < 32 ∧ x0 + i < 64
      · rw [Canvas.plot_get _ _ _ _ hg.1 hg.2]
        have : ¬(row = row ∧ x0 + i = x0 + j) := by
          rintro ⟨_, h⟩
          have : i = j := by omega
          exact hd.1 (this ▸ hi)
        rw [decide_eq_false this]
        simp
      · rw [Display.get_outside hg, Display.get_outside hg]
    simp only [Bool.or_eq_true, Bool.and_eq_true, List.mem_cons, exists_eq_or_imp]
    constructor
    · rintro ((h | h) | ⟨i, hi, h1, h2⟩)
      · exact .inl h
      · exact .inr (.inl h)
      · exact .inr (.inr ⟨i, hi, h1, same i hi ▸ h2⟩)
    · rintro (h | h | ⟨i, hi, h1, h2⟩)
      · exact .inl (.inl h)
      · exact .inl (.inr h)
      · exact .inr ⟨i, hi, h1, (same i hi).symm ▸ h2⟩

/-- The pixel of a sprite, given as its bytes from row `row` on, at a cell of the grid. -/
def spritePixel (bytes : List Byte) (row x0 r c : Nat) : Bool :=
  if h : row ≤ r ∧ r < row + bytes.length then
    decide (x0 ≤ c ∧ c < x0 + 8) && (bytes[r - row]'(by omega)).getLsbD (7 - (c - x0))
  else false

theorem Canvas.drawByte_get (k : Canvas) (row x0 : Nat) (byte : Byte) {r c : Nat} (hr : r < 32) (hc : c < 64) :
    (k.drawByte row x0 byte).disp.get r c =
      (k.disp.get r c ^^ (decide (r = row ∧ x0 ≤ c ∧ c < x0 + 8) && byte.getLsbD (7 - (c - x0)))) := by
  unfold Canvas.drawByte
  rw [Canvas.plots_get row x0 (fun j => byte.getLsbD (7 - j)) _ (by decide) k hr hc]
  have : (r = row ∧ x0 ≤ c ∧ c - x0 ∈ [0, 1, 2, 3, 4, 5, 6, 7]) ↔ (r = row ∧ x0 ≤ c ∧ c < x0 + 8) := by
    simp only [List.mem_cons, List.not_mem_nil, or_false]
    omega
  simp only [this]

theorem Canvas.drawByte_collision (k : Canvas) (row x0 : Nat) (byte : Byte) :
    (k.drawByte row x0 byte).collision = true ↔
      k.collision = true ∨ ∃ j, j < 8 ∧ byte.getLsbD (7 - j) = true ∧ k.disp.get row (x0 + j) = true := by
  unfold Canvas.drawByte
  rw [Canvas.plots_collision row x0 (fun j => byte.getLsbD (7 - j)) _ (by decide) k]
  have : ∀ j, j ∈ [0, 1, 2, 3, 4, 5, 6, 7] ↔ j < 8 := by
    intro j
    simp only [List.mem_cons, List.not_mem_nil, or_false]
    omega
  simp only [this]

theorem spritePixel_cons (byte : Byte) (rest : List Byte) (row x0 r c : Nat) :
    spritePixel (byte :: rest) row x0 r c =
      ((decide (r = row ∧ x0 ≤ c ∧ c < x0 + 8) && byte.getLsbD (7 - (c - x0))) ^^
        spritePixel rest (row + 1) x0 r c) := by
  by_cases h : r = row
  · subst h
    have h1 : r ≤ r ∧ r < r + (byte :: rest).length := by simp
    have h2 : ¬(r + 1 ≤ r ∧ r < r + 1 + rest.length) := by omega
    rw [spritePixel, dif_pos h1, spritePixel, dif_neg h2]
    simp
  · by_cases h2 : row + 1 ≤ r ∧ r < row + 1 + rest.length
    · have h1 : row ≤ r ∧ r < row + (byte :: rest).length := by simp only [List.length_cons]; omega
      have e : r - row = (r - (row + 1)) + 1 := by omega
      rw [spritePixel, dif_pos h1, spritePixel, dif_pos h2]
      simp [h, e]
    · have h1 : ¬(row ≤ r ∧ r < row + (byte :: rest).length) := by simp only [List.length_cons]; omega
      rw [spritePixel, dif_neg h1, spritePixel, dif_neg h2]
      simp [h]

theorem spritePixel_below (rest : List Byte) {row x0 r c : Nat} (h : r < row) : spritePixel rest row x0 r c = false := by
  rw [spritePixel, dif_neg (by omega)]

/-- DRAW's picture: every cell is exclusive-ORed with the sprite's pixel at it. -/
theorem Canvas.drawRows_get (bytes : List Byte) (row x0 : Nat) (k : Canvas) {r c : Nat} (hr : r < 32) (hc : c < 64) :
    (k.drawRows row x0 bytes).disp.get r c = (k.disp.get r c ^^ spritePixel bytes row x0 r c) := by
  induction bytes generalizing row k with
  | nil =>
    rw [spritePixel, dif_neg (by simp)]
    simp [Canvas.drawRows]
  | cons byte rest ih =>
    unfold Canvas.drawRows
    split
    · rw [spritePixel_below _ (by omega)]; simp
    · rw [ih, Canvas.drawByte_get _ _ _ _ hr hc, spritePixel_cons, Bool.xor_assoc]

/-- DRAW's collision: a sprite pixel on a lit cell. -/
theorem Canvas.drawRows_collision (bytes : List Byte) (row x0 : Nat) (k : Canvas) :
    (k.drawRows row x0 bytes).collision = true ↔
      k.collision = true ∨ ∃ r c, r < 32 ∧ c < 64 ∧ spritePixel bytes row x0 r c = true ∧ k.disp.get r c = true := by
  induction bytes generalizing row k with
  | nil =>
    have : ∀ r c, spritePixel [] row x0 r c = false := by
      intro r c; rw [spritePixel, dif_neg (by simp)]
    simp [Canvas.drawRows, this]
  | cons byte rest ih =>
    unfold Canvas.drawRows
    split
    · constructor
      · exact .inl
      · rintro (h | ⟨r, c, hr, hc, h, _⟩)
        · exact h
        · rw [spritePixel_below _ (by omega)] at h; cases h
    · rename_i hrow
      rw [ih, Canvas.drawByte_collision]
      constructor
      · rintro ((h | ⟨j, hj, hb, hg⟩) | ⟨r, c, hr, hc, hp, hg⟩)
        · exact .inl h
        · have hin : row < 32 ∧ x0 + j < 64 := by
            by_contra hn; rw [Display.get_outside hn] at hg; cases hg
          refine .inr ⟨row, x0 + j, hin.1, hin.2, ?_, hg⟩
          rw [spritePixel_cons, spritePixel_below _ (by omega)]
          simp [hb, hj]
        · by_cases e : r = row
          · subst e; rw [spritePixel_below _ (by omega)] at hp; cases hp
          · refine .inr ⟨r, c, hr, hc, ?_, ?_⟩
            · rw [spritePixel_cons, hp]; simp [e]
            · rw [Canvas.drawByte_get _ _ _ _ hr hc] at hg; simpa [e] using hg
      · rintro (h | ⟨r, c, hr, hc, hp, hg⟩)
        · exact .inl (.inl h)
        · by_cases e : r = row
          · subst e
            rw [spritePixel_cons, spritePixel_below rest (by omega)] at hp
            simp only [true_and, Bool.xor_false, Bool.and_eq_true, decide_eq_true_eq] at hp
            obtain ⟨⟨h1, h2⟩, h3⟩ := hp
            refine .inl (.inr ⟨c - x0, by omega, h3, ?_⟩)
            rw [show x0 + (c - x0) = c by omega]; exact hg
          · refine .inr ⟨r, c, hr, hc, ?_, ?_⟩
            · rw [spritePixel_cons] at hp; simpa [e] using hp
            · rw [Canvas.drawByte_get _ _ _ _ hr hc, hg]; simp [e]

end Sys2Proof.Machine
end

