-- ==== Sys2Proof/Laws/Memory.lean ====
section
/-! SUPPORT. The memory operations: what a read gives after a write, and that every write keeps the canonical form. -/

namespace Sys2Proof.Machine

variable (font : Vector Byte 80)

theorem Memory.read_erase (m : Memory) (a b : Nat) :
    Memory.read font (m.erase a) b = if b = a then resetByte font b else m.read font b := by
  induction m with
  | nil => simp [Memory.erase, Memory.read]
  | cons c m ih =>
    obtain ⟨k, x⟩ := c
    by_cases hk : k = a <;> by_cases hb : k = b <;> simp_all [Memory.erase, Memory.read]

theorem Memory.read_insert_same (m : Memory) (a : Nat) (x : Byte) (h : ∀ c ∈ m, c.1 ≠ a) :
    Memory.read font (m.insert a x) a = x := by
  induction m with
  | nil => simp [Memory.insert, Memory.read]
  | cons c m ih =>
    obtain ⟨k, y⟩ := c
    have hk : k ≠ a := h (k, y) (by simp)
    have := ih fun c hc => h c (by simp [hc])
    unfold Memory.insert
    split <;> simp_all [Memory.read]

theorem Memory.read_insert_other (m : Memory) (a b : Nat) (x : Byte) (h : b ≠ a) :
    Memory.read font (m.insert a x) b = m.read font b := by
  induction m with
  | nil => simp [Memory.insert, Memory.read, Ne.symm h]
  | cons c m ih =>
    obtain ⟨k, y⟩ := c
    unfold Memory.insert
    split <;> simp [Memory.read, ih, Ne.symm h]

theorem Memory.mem_erase {m : Memory} {a : Nat} {c : Host.Cell} : c ∈ m.erase a ↔ c ∈ m ∧ c.1 ≠ a := by
  induction m with
  | nil => simp [Memory.erase]
  | cons d m ih =>
    obtain ⟨k, y⟩ := d
    unfold Memory.erase
    split
    · subst k
      simp only [ih, List.mem_cons]
      constructor
      · exact fun h => ⟨.inr h.1, h.2⟩
      · rintro ⟨rfl | h, h2⟩
        · exact absurd rfl h2
        · exact ⟨h, h2⟩
    · rename_i hk
      simp only [ih, List.mem_cons]
      constructor
      · rintro (rfl | h)
        · exact ⟨.inl rfl, hk⟩
        · exact ⟨.inr h.1, h.2⟩
      · rintro ⟨rfl | h, h2⟩
        · exact .inl rfl
        · exact .inr ⟨h, h2⟩

theorem Memory.mem_insert {m : Memory} {a : Nat} {x : Byte} {c : Host.Cell} :
    c ∈ m.insert a x ↔ c = (a, x) ∨ c ∈ m := by
  induction m with
  | nil => simp [Memory.insert]
  | cons d m ih =>
    unfold Memory.insert
    split
    · simp
    · simp [ih, or_left_comm]

/-- The latest write to a byte is what a read of it gives, and no other byte changes (spec/20_memory.md R59). It holds of
every listing, canonical or not. -/
theorem Memory.read_write (m : Memory) (a b : Nat) (x : Byte) :
    Memory.read font (m.write font a x) b = if b = a then x else m.read font b := by
  unfold Memory.write
  by_cases hb : b = a
  · subst b
    split
    · simp_all [Memory.read_erase]
    · rw [Memory.read_insert_same]
      · simp
      · exact fun c hc => (Memory.mem_erase.mp hc).2
  · split
    · simp [Memory.read_erase, hb]
    · simp [Memory.read_insert_other, Memory.read_erase, hb]

theorem Memory.pairwise_erase {m : Memory} (a : Nat) (h : m.Pairwise (fun p q => p.1 < q.1)) :
    (m.erase a).Pairwise (fun p q => p.1 < q.1) := by
  induction m with
  | nil => simp [Memory.erase]
  | cons d m ih =>
    obtain ⟨k, y⟩ := d
    rw [List.pairwise_cons] at h
    unfold Memory.erase
    split
    · exact ih h.2
    · exact List.pairwise_cons.mpr ⟨fun c hc => h.1 c (Memory.mem_erase.mp hc).1, ih h.2⟩

theorem Memory.pairwise_insert {m : Memory} {a : Nat} (x : Byte) (h : m.Pairwise (fun p q => p.1 < q.1))
    (ha : ∀ c ∈ m, c.1 ≠ a) : (m.insert a x).Pairwise (fun p q => p.1 < q.1) := by
  induction m with
  | nil => simp [Memory.insert]
  | cons d m ih =>
    obtain ⟨k, y⟩ := d
    rw [List.pairwise_cons] at h
    have hk : k ≠ a := ha (k, y) (by simp)
    unfold Memory.insert
    split
    · rename_i hlt
      refine List.pairwise_cons.mpr ⟨?_, List.pairwise_cons.mpr h⟩
      intro c hc
      rcases List.mem_cons.mp hc with rfl | hc
      · exact hlt
      · exact Nat.lt_trans hlt (h.1 c hc)
    · rename_i hlt
      refine List.pairwise_cons.mpr ⟨?_, ih h.2 fun c hc => ha c (by simp [hc])⟩
      intro c hc
      rcases Memory.mem_insert.mp hc with rfl | hc
      · exact Nat.lt_of_le_of_ne (Nat.le_of_not_lt hlt) hk
      · exact h.1 c hc

/-- A write inside the memory keeps the canonical form. -/
theorem Memory.wf_write {m : Memory} {a : Nat} (x : Byte) (h : m.wf font) (ha : a < memSize) :
    Memory.wf font (m.write font a x) := by
  obtain ⟨hp, hc⟩ := h
  unfold Memory.write
  split
  · exact ⟨Memory.pairwise_erase a hp, fun c h => hc c (Memory.mem_erase.mp h).1⟩
  · rename_i hx
    refine ⟨Memory.pairwise_insert x (Memory.pairwise_erase a hp) fun c h => (Memory.mem_erase.mp h).2, ?_⟩
    intro c h
    rcases Memory.mem_insert.mp h with rfl | h
    · exact ⟨ha, hx⟩
    · exact hc c (Memory.mem_erase.mp h).1

/-- Consecutive writes: each byte of the range reads as the byte written to it, every other byte as before. -/
theorem Memory.read_writeBytes (m : Memory) (a : Nat) (bs : List Byte) (b : Nat) :
    Memory.read font (m.writeBytes font a bs) b =
      if h : a ≤ b ∧ b < a + bs.length then bs[b - a] else m.read font b := by
  induction bs generalizing m a with
  | nil =>
    simp [Memory.writeBytes]
  | cons x bs ih =>
    simp only [Memory.writeBytes, ih, List.length_cons, Memory.read_write]
    by_cases hb : b = a
    · subst b
      simp
    · by_cases h : a + 1 ≤ b ∧ b < a + 1 + bs.length
      · have h' : a ≤ b ∧ b < a + (bs.length + 1) := by omega
        rw [dif_pos h, dif_pos h']
        have : b - a = (b - (a + 1)) + 1 := by omega
        simp [this]
      · have h' : ¬(a ≤ b ∧ b < a + (bs.length + 1)) := by omega
        rw [dif_neg h, dif_neg h', if_neg hb]

/-- Consecutive writes inside the memory keep the canonical form. -/
theorem Memory.wf_writeBytes {m : Memory} {a : Nat} (bs : List Byte) (h : m.wf font) (ha : a + bs.length ≤ memSize) :
    Memory.wf font (m.writeBytes font a bs) := by
  induction bs generalizing m a with
  | nil => exact h
  | cons x bs ih =>
    rw [List.length_cons] at ha
    exact ih (Memory.wf_write font x h (by omega)) (by omega)

@[simp] theorem Memory.length_readBytes (m : Memory) (a n : Nat) : (m.readBytes font a n).length = n := by
  induction n generalizing a with
  | zero => rfl
  | succ n ih => simp [Memory.readBytes, ih]

/-- Consecutive reads: element `k` is the byte at `a + k`. -/
@[simp] theorem Memory.getElem_readBytes (m : Memory) (a n k : Nat) (h : k < (m.readBytes font a n).length) :
    (m.readBytes font a n)[k] = m.read font (a + k) := by
  induction n generalizing a k with
  | zero => simp [Memory.readBytes] at h
  | succ n ih =>
    cases k with
    | zero => simp [Memory.readBytes]
    | succ k =>
      simp only [Memory.readBytes, List.getElem_cons_succ]
      rw [ih]
      congr 1
      omega

/-- The reset memory lists nothing and is canonical. -/
theorem Memory.wf_nil : Memory.wf font [] := by simp [Memory.wf]

theorem inMemory_iff (base n : Nat) : inMemory base n = true ↔ n = 0 ∨ base + n ≤ memSize := by
  simp [inMemory, memSize]

end Sys2Proof.Machine
end

