-- ==== Sys2Proof/Laws/Ops.lean ====
section
/-! SUPPORT. One lemma per shared operation, saying once everything it can do; later proofs cite these instead of
unfolding the operation. -/

namespace Sys2Proof.Machine

variable (s : State)

/-! ## Registers -/

/-- A register after a register write. -/
theorem State.getV_setV (x k : Nibble) (b : Byte) : (s.setV x b).getV k = if k = x then b else s.getV k := by
  unfold State.getV State.setV
  simp only [Vector.getElem_set]
  by_cases h : k = x
  · simp [h]
  · have : ¬(x.toNat = k.toNat) := fun e => h (BitVec.eq_of_toNat_eq e.symm)
    simp [h, this]

/-- A register after a result and a flag write: VF holds the flag (spec/43_alu.md R149). -/
theorem State.getV_setVThenFlag (x k : Nibble) (r f : Byte) :
    (s.setVThenFlag x r f).getV k = if k = 0xF then f else if k = x then r else s.getV k := by
  rw [State.setVThenFlag, State.setVF, State.getV_setV, State.getV_setV]

/-- The same, as the vector's elements. -/
theorem State.getElem_setV (x k : Nibble) (b : Byte) :
    (s.v.set x.toNat b x.isLt)[k.toNat]'k.isLt = if k = x then b else s.getV k :=
  State.getV_setV s x k b

theorem State.getElem_setVThenFlag (x k : Nibble) (r f : Byte) :
    ((s.v.set x.toNat r x.isLt).set 15 f)[k.toNat]'k.isLt = if k = 0xF then f else if k = x then r else s.getV k :=
  State.getV_setVThenFlag s x k r f

/-- An update that leaves the register file alone leaves every register alone. -/
theorem State.getV_congr {t : State} (h : t.v = s.v) (k : Nibble) : t.getV k = s.getV k := by
  unfold State.getV; simp only [h]

/-- Consecutive register writes from number `k` up. -/
theorem getElem_regsWrite (v : Vector Byte 16) (k : Nat) (bs : List Byte) (j : Nat) (hj : j < 16) :
    (regsWrite v k bs)[j] = if h : k ≤ j ∧ j < k + bs.length then bs[j - k] else v[j] := by
  induction bs generalizing v k with
  | nil => rw [dif_neg (by simp)]; rfl
  | cons b bs ih =>
    simp only [regsWrite, ih, Vector.getElem_setIfInBounds, List.length_cons]
    by_cases e : k = j
    · subst e; simp
    · by_cases h : k + 1 ≤ j ∧ j < k + 1 + bs.length
      · have h' : k ≤ j ∧ j < k + (bs.length + 1) := by omega
        rw [dif_pos h, dif_pos h']
        have : j - k = (j - (k + 1)) + 1 := by omega
        simp [this]
      · have h' : ¬(k ≤ j ∧ j < k + (bs.length + 1)) := by omega
        rw [dif_neg h, dif_neg h', if_neg e]

@[simp] theorem State.length_regsUpTo (x : Nibble) : (s.regsUpTo x).length = x.toNat + 1 := by
  have := x.isLt
  simp [State.regsUpTo]; omega

/-- The bytes FX55 stores are `V[0]..V[X]` in order. -/
@[simp] theorem State.getElem_regsUpTo (x k : Nibble) (h : k.toNat < (s.regsUpTo x).length) :
    (s.regsUpTo x)[k.toNat] = s.getV k := by
  simp [State.regsUpTo, State.getV]

/-! ## Memory through the state -/

/-- The data write: in bounds, the memory takes the bytes and nothing else changes; out of bounds, nothing is written. -/
theorem State.storeBytes_eq (bs : List Byte) :
    s.storeBytes bs = if bs.length = 0 ∨ s.i.toNat + bs.length ≤ memSize then
      some { s with mem := s.mem.writeBytes s.cfg.font s.i.toNat bs } else none := by
  unfold State.storeBytes
  by_cases h : bs.length = 0 ∨ s.i.toNat + bs.length ≤ memSize
  · rw [if_pos h, if_pos ((inMemory_iff _ _).mpr h)]
  · rw [if_neg h, if_neg (fun k => h ((inMemory_iff _ _).mp k))]

/-- The data read. -/
theorem State.loadBytes_eq (n : Nat) :
    s.loadBytes n = if n = 0 ∨ s.i.toNat + n ≤ memSize then some (s.mem.readBytes s.cfg.font s.i.toNat n) else none := by
  unfold State.loadBytes
  by_cases h : n = 0 ∨ s.i.toNat + n ≤ memSize
  · rw [if_pos h, if_pos ((inMemory_iff _ _).mpr h)]
  · rw [if_neg h, if_neg (fun k => h ((inMemory_iff _ _).mp k))]

/-- A byte of the memory after a data write, whatever the address. -/
theorem State.readMem_store (bs : List Byte) (a : Nat) :
    State.readMem { s with mem := s.mem.writeBytes s.cfg.font s.i.toNat bs } a =
      if h : s.i.toNat ≤ a ∧ a < s.i.toNat + bs.length then bs[a - s.i.toNat] else s.readMem a :=
  Memory.read_writeBytes s.cfg.font s.mem s.i.toNat bs a

/-- The same, the stored bytes given by a function of their offset from `I`. -/
theorem State.readMem_store_eq (bs : List Byte) (f : Nat → Byte) (hf : ∀ (k : Nat) (h : k < bs.length), bs[k] = f k)
    (a : Nat) : State.readMem { s with mem := s.mem.writeBytes s.cfg.font s.i.toNat bs } a = s.byteAfterStore bs.length f a := by
  rw [State.readMem_store, State.byteAfterStore]
  split
  · exact hf _ _
  · rfl

/-- The word at `pc` after a data write. -/
theorem State.wordAtPc_store (bs : List Byte) (f : Nat → Byte) (hf : ∀ (k : Nat) (h : k < bs.length), bs[k] = f k) :
    State.wordAtPc { s with mem := s.mem.writeBytes s.cfg.font s.i.toNat bs } = s.wordAfterStore bs.length f := by
  rw [State.wordAtPc, State.readMem_store_eq s bs f hf, State.readMem_store_eq s bs f hf]
  rfl

/-- The fetch. -/
theorem State.fetch_eq :
    s.fetch = if s.pc.toNat ≤ 0xFFE then some s.wordAtPc else none := by
  have e : wordOfBytes (s.readMem s.pc.toNat) (s.readMem (s.pc.toNat + 1)) = s.wordAtPc := by
    apply BitVec.eq_of_toNat_eq
    have h1 := (s.readMem s.pc.toNat).isLt
    have h2 := (s.readMem (s.pc.toNat + 1)).isLt
    rw [wordOfBytes_toNat, State.wordAtPc, BitVec.toNat_ofNat]; omega
  unfold State.fetch
  by_cases h : s.pc.toNat ≤ 0xFFE
  · rw [if_pos h, if_pos ((inMemory_iff _ _).mpr (by simp [memSize]; omega)), e]
  · rw [if_neg h, if_neg]
    intro k
    have := (inMemory_iff _ _).mp k
    simp [memSize] at this; omega

/-! ## Call stack -/

/-- `Push`. -/
theorem State.push_eq (w : Word) :
    s.push w = if s.stack.length < s.cfg.stackDepth then some { s with stack := s.stack ++ [w] } else none := rfl

/-- `Pop` of a stack with a newest entry. -/
theorem State.pop_concat (init : List Word) (w : Word) (h : s.stack = init ++ [w]) :
    s.pop = some (w, { s with stack := init }) := by
  simp [State.pop, h]

/-- `Pop` of an empty stack. -/
theorem State.pop_nil (h : s.stack = []) : s.pop = none := by simp [State.pop, h]

/-! ## Keys -/

/-- Only a code up to `0x0F` names a key (spec/60_exceptions.md R227). -/
theorem State.keyPressed_eq (b : Byte) :
    s.keyPressed b = true ↔ ∃ k : Nibble, k.toNat = b.toNat ∧ s.latch k = true := by
  unfold State.keyPressed State.latch
  by_cases h : b.toNat < 16
  · simp only [dif_pos h]
    constructor
    · intro e
      refine ⟨BitVec.ofNat 4 b.toNat, by simp; omega, ?_⟩
      have : (BitVec.ofNat 4 b.toNat).toNat = b.toNat := by simp; omega
      simp only [this]
      exact e
    · rintro ⟨k, hk, e⟩
      simpa [← hk] using e
  · simp only [dif_neg h]
    constructor
    · intro e; cases e
    · rintro ⟨k, hk, _⟩
      exact absurd (hk ▸ k.isLt) h

/-- Every key is in the scan. -/
theorem mem_keyScan (k : Nibble) : k ∈ keyScan := by
  revert k; decide

/-- A key found by the scan is down, and those before it are not. -/
theorem State.firstKey_eq_some {k : Nibble} {pre post : List Nibble} (hs : keyScan = pre ++ k :: post)
    (hk : s.latch k = true) (hp : ∀ j ∈ pre, s.latch j = false) : s.firstKey = some k := by
  unfold State.firstKey
  rw [hs, List.find?_append, List.find?_eq_none.mpr (by simpa using hp)]
  simp [hk]

theorem State.firstKey_eq_none (h : ∀ k, s.latch k = false) : s.firstKey = none := by
  unfold State.firstKey
  exact List.find?_eq_none.mpr (by simp [h])

/-! ## Timers -/

/-- A tick of a timer takes one, floored at zero (spec/60_exceptions.md R223). -/
theorem countDown_toNat (b : Byte) : (countDown b).toNat = b.toNat - 1 := by
  unfold countDown trunc8
  have := b.isLt
  split
  · simp; omega
  · omega

end Sys2Proof.Machine
end

