-- ==== Sys2Proof/Laws/Step.lean ====
section
/-! SUPPORT. What one transition can do, said once: the cases of `step` by whose turn it is, and of a `Step` by what is
fetched. -/

namespace Sys2Proof.Machine

variable (s : State)

/-- A `Step` of a halted core changes nothing (spec/40_flow.md R102). -/
theorem State.executionStep_halted (h : s.err ≠ .none) : s.executionStep = .next s := by
  unfold State.executionStep
  cases e : s.err <;> simp_all

/-- A `Step` of a running core is one instruction of the core marked as started. -/
theorem State.executionStep_running (h : s.err = .none) : s.executionStep = s.markStarted.runOne := by
  simp [State.executionStep, h]

/-- The cases of one instruction: a fetch outside the memory (R101), an unmapped word (R103), an instruction (R100). -/
theorem State.runOne_eq :
    s.runOne = if s.pc.toNat ≤ 0xFFE then
      match decode s.wordAtPc with
      | .ok i => exec i s.advance
      | .error _ => .next s.advance
    else .next (s.raise .fetchBounds) := by
  unfold State.runOne
  rw [State.fetch_eq]
  by_cases h : s.pc.toNat ≤ 0xFFE
  · rw [if_pos h, if_pos h]; try rfl
  · rw [if_neg h, if_neg h]

/-- The same cases, as what a next state of a `Step` can be. -/
theorem State.executionStep_cases {t : State} (h : s.executionStep = .next t) :
    (s.err ≠ .none ∧ t = s) ∨
    (s.err = .none ∧ 0xFFE < s.pc.toNat ∧ t = s.markStarted.raise .fetchBounds) ∨
    (s.err = .none ∧ s.pc.toNat ≤ 0xFFE ∧ (∃ r, decode s.wordAtPc = .error r) ∧ t = s.markStarted.advance) ∨
    (s.err = .none ∧ s.pc.toNat ≤ 0xFFE ∧ ∃ i, decode s.wordAtPc = .ok i ∧ exec i s.markStarted.advance = .next t) := by
  by_cases e : s.err = .none
  · rw [s.executionStep_running e, State.runOne_eq] at h
    have hw : s.markStarted.wordAtPc = s.wordAtPc := rfl
    have hp : s.markStarted.pc = s.pc := rfl
    rw [hw, hp] at h
    split at h
    · rename_i hpc
      split at h
      · rename_i i hi
        exact .inr (.inr (.inr ⟨e, hpc, i, hi, h⟩))
      · rename_i r hr
        injection h with h
        exact .inr (.inr (.inl ⟨e, hpc, ⟨r, hr⟩, h.symm⟩))
    · rename_i hpc
      injection h with h
      exact .inr (.inl ⟨e, by omega, h.symm⟩)
  · rw [s.executionStep_halted e] at h
    injection h with h
    exact .inl ⟨e, h.symm⟩

/-- The machine's run, one transition at a time. -/
theorem run_next {s t : State} (n : Nat) (h : step s = .next t) :
    Host.Core.run Sys2Proof.core (n + 1) s = Host.Core.run Sys2Proof.core n t := by
  have e : Sys2Proof.core.step s = .next t := h
  simp only [Host.Core.run, e]

/-- The placed word is what a fetch reads (log entry 15). -/
theorem State.placeWord_fetch (w : Word) : (s.placeWord w).popAgenda.fetch = some w := by
  have hb : s.placeBase.toNat ≤ 0xFFE := by
    unfold State.placeBase
    split
    · rename_i h
      have := (inMemory_iff _ _).mp h
      simp [memSize] at this; omega
    · decide
  rw [State.fetch_eq]
  have hp : (s.placeWord w).popAgenda.pc = s.placeBase := rfl
  rw [hp, if_pos hb]
  congr 1
  apply BitVec.eq_of_toNat_eq
  have h0 : (s.placeWord w).popAgenda.readMem s.placeBase.toNat = highByte w := by
    show Memory.read s.cfg.font (Memory.writeBytes s.cfg.font _ _ _) _ = _
    rw [Memory.read_writeBytes]; simp
  have h1 : (s.placeWord w).popAgenda.readMem (s.placeBase.toNat + 1) = lowByte w := by
    show Memory.read s.cfg.font (Memory.writeBytes s.cfg.font _ _ _) _ = _
    rw [Memory.read_writeBytes]; simp
  have := w.isLt
  rw [State.wordAtPc, hp, h0, h1, BitVec.toNat_ofNat, highByte_toNat, lowByte_toNat]; omega

/-- From every state, the next transition after placing a word runs the instruction that word decodes to. -/
theorem step_placeWord (w : Word) (i : Instr) (h : decode w = .ok i) :
    step (s.placeWord w) = exec i (s.placeWord w).popAgenda.markStarted.advance := by
  show (s.placeWord w).popAgenda.executionStep = _
  rw [State.executionStep_running _ rfl]
  show (match (s.placeWord w).popAgenda.fetch with | none => _ | some w => _) = _
  rw [State.placeWord_fetch]
  simp only [h]

end Sys2Proof.Machine
end

