-- ==== Sys2Proof/Laws/Exec.lean ====
section
/-! SUPPORT. Everything `exec` can do, said once: `ExecTo s i t` lists the next states of each instruction, the split
cases with their conditions. A proof about all instructions is a case split on it instead of on the meanings. -/

namespace Sys2Proof.Machine

/-- The next states of each instruction. -/
inductive ExecTo (s : State) : Instr → State → Prop
  | clear : ExecTo s .clear { s with disp := Display.blank, redraw := true }
  | retPop (older : List Word) (w : Word) (h : s.stack = older ++ [w]) :
      ExecTo s .ret { s with pc := w, stack := older }
  | retEmpty (h : s.stack = []) : ExecTo s .ret (s.raise .emptyStack)
  | jump (nnn : Addr) : ExecTo s (.jump nnn) (s.setPc (zext16 nnn))
  | callPush (nnn : Addr) (h : s.stack.length < s.cfg.stackDepth) :
      ExecTo s (.call nnn) { s with pc := zext16 nnn, stack := s.stack ++ [s.pc] }
  | callFull (nnn : Addr) (h : s.cfg.stackDepth ≤ s.stack.length) : ExecTo s (.call nnn) (s.raise .stackOverflow)
  | jumpOffset (nnn : Addr) (x : Nibble) :
      ExecTo s (.jumpOffset nnn x) (s.setPc (trunc16 ((zext16 nnn).toNat + (s.jumpOffset x).toNat)))
  | skipEqImm (x : Nibble) (nn : Byte) : ExecTo s (.skipEqImm x nn) (s.skipIf (s.getV x == nn))
  | skipNeqImm (x : Nibble) (nn : Byte) : ExecTo s (.skipNeqImm x nn) (s.skipIf (s.getV x != nn))
  | skipEqReg (x y n : Nibble) : ExecTo s (.skipEqReg x y n) (s.skipIf (s.getV x == s.getV y))
  | skipNeqReg (x y n : Nibble) : ExecTo s (.skipNeqReg x y n) (s.skipIf (s.getV x != s.getV y))
  | keyPressed (x : Nibble) : ExecTo s (.keyPressed x) (s.skipIf (s.keyPressed (s.getV x)))
  | keyNotPressed (x : Nibble) : ExecTo s (.keyNotPressed x) (s.skipIf (!s.keyPressed (s.getV x)))
  | loadImm (x : Nibble) (nn : Byte) : ExecTo s (.loadImm x nn) (s.setV x nn)
  | addImm (x : Nibble) (nn : Byte) : ExecTo s (.addImm x nn) (s.setV x (trunc8 ((s.getV x).toNat + nn.toNat)))
  | copy (x y : Nibble) : ExecTo s (.copy x y) (s.setV x (s.getV y))
  | or (x y : Nibble) : ExecTo s (.or x y) (s.setV x (s.getV x ||| s.getV y))
  | and (x y : Nibble) : ExecTo s (.and x y) (s.setV x (s.getV x &&& s.getV y))
  | xor (x y : Nibble) : ExecTo s (.xor x y) (s.setV x (s.getV x ^^^ s.getV y))
  | add (x y : Nibble) : ExecTo s (.add x y)
      (s.setVThenFlag x (trunc8 ((s.getV x).toNat + (s.getV y).toNat)) (Flags.carry (s.getV x) (s.getV y)))
  | sub (x y : Nibble) : ExecTo s (.sub x y)
      (s.setVThenFlag x (s.getV x - s.getV y) (Flags.noBorrow (s.getV x) (s.getV y)))
  | subn (x y : Nibble) : ExecTo s (.subn x y)
      (s.setVThenFlag x (s.getV y - s.getV x) (Flags.noBorrow (s.getV y) (s.getV x)))
  | shr (x y : Nibble) : ExecTo s (.shr x y)
      (s.setVThenFlag x (s.shiftSource x y >>> 1) (Flags.shiftedOutLow (s.shiftSource x y)))
  | shl (x y : Nibble) : ExecTo s (.shl x y)
      (s.setVThenFlag x (trunc8 ((s.shiftSource x y).toNat * 2)) (Flags.shiftedOutHigh (s.shiftSource x y)))
  | random (x : Nibble) (nn : Byte) : ExecTo s (.random x nn) (s.drawn.setV x (s.rand &&& nn))
  | setIndex (nnn : Addr) : ExecTo s (.setIndex nnn) (s.setI (zext16 nnn))
  | spriteAddr (x : Nibble) : ExecTo s (.spriteAddr x) (s.setI (glyphAddr (s.getV x)))
  | addIndex (x : Nibble) : ExecTo s (.addIndex x)
      ((s.setI (trunc16 (s.i.toNat + (s.getV x).toNat))).setVF
        (Flags.leavesMemory s.i.toNat (s.i.toNat + (s.getV x).toNat)))
  | storeBcd (x : Nibble) (h : s.i.toNat + 2 ≤ 0xFFF) : ExecTo s (.storeBcd x)
      { s with mem := s.mem.writeBytes s.cfg.font s.i.toNat (bcdDigits (s.getV x)) }
  | storeBcdOutside (x : Nibble) (h : 0xFFF < s.i.toNat + 2) : ExecTo s (.storeBcd x) (s.warn (.bcdBounds s.i))
  | regDump (x : Nibble) (h : s.i.toNat + x.toNat ≤ 0xFFF) : ExecTo s (.regDump x)
      { s with mem := s.mem.writeBytes s.cfg.font s.i.toNat (s.regsUpTo x) }
  | regDumpOutside (x : Nibble) (h : 0xFFF < s.i.toNat + x.toNat) : ExecTo s (.regDump x) (s.warn (.dumpBounds s.i x))
  | regLoad (x : Nibble) (h : s.i.toNat + x.toNat ≤ 0xFFF) : ExecTo s (.regLoad x)
      { s with v := regsWrite s.v 0 (s.mem.readBytes s.cfg.font s.i.toNat (x.toNat + 1)) }
  | regLoadOutside (x : Nibble) (h : 0xFFF < s.i.toNat + x.toNat) : ExecTo s (.regLoad x) (s.warn (.loadBounds s.i x))
  | draw (x y n : Nibble) (bytes : List Byte) (h : n.toNat = 0 ∨ s.i.toNat + n.toNat - 1 ≤ 0xFFF)
      (hb : bytes = s.mem.readBytes s.cfg.font s.i.toNat n.toNat) : ExecTo s (.draw x y n)
      { s.setVF (Flags.collision (s.picture x y bytes).collision) with
        disp := (s.picture x y bytes).disp, redraw := true }
  | drawOutside (x y n : Nibble) (h : 0 < n.toNat) (h' : 0xFFF < s.i.toNat + n.toNat - 1) :
      ExecTo s (.draw x y n) (s.warn (.drawBounds s.i n))
  | waitKey (x k : Nibble) (h : s.firstKey = some k) : ExecTo s (.waitKey x) (s.setV x (k.setWidth 8))
  | waitKeyNone (x : Nibble) (h : s.firstKey = none) : ExecTo s (.waitKey x) s.rewind
  | getDelay (x : Nibble) : ExecTo s (.getDelay x) (s.setV x s.dt)
  | setDelay (x : Nibble) : ExecTo s (.setDelay x) (s.setDT (s.getV x))
  | setSound (x : Nibble) : ExecTo s (.setSound x) (s.setST (s.getV x))

/-- A data write whose range lies in the memory. -/
theorem State.storeBytes_inside (s : State) (bs : List Byte) (h : s.i.toNat + bs.length ≤ 0x1000) :
    s.storeBytes bs = some { s with mem := s.mem.writeBytes s.cfg.font s.i.toNat bs } := by
  rw [State.storeBytes_eq, if_pos (.inr h)]

/-- A data write whose range leaves the memory. -/
theorem State.storeBytes_outside (s : State) (bs : List Byte) (h0 : bs.length ≠ 0)
    (h : 0x1000 < s.i.toNat + bs.length) : s.storeBytes bs = none := by
  have : ¬(bs.length = 0 ∨ s.i.toNat + bs.length ≤ memSize) := by simp only [memSize]; omega
  rw [State.storeBytes_eq, if_neg this]

/-- A data read whose range lies in the memory. -/
theorem State.loadBytes_inside (s : State) (n : Nat) (h : n = 0 ∨ s.i.toNat + n ≤ 0x1000) :
    s.loadBytes n = some (s.mem.readBytes s.cfg.font s.i.toNat n) := by
  rw [State.loadBytes_eq, if_pos (show n = 0 ∨ s.i.toNat + n ≤ memSize from h)]

/-- A data read whose range leaves the memory. -/
theorem State.loadBytes_outside (s : State) (n : Nat) (h0 : n ≠ 0) (h : 0x1000 < s.i.toNat + n) :
    s.loadBytes n = none := by
  have : ¬(n = 0 ∨ s.i.toNat + n ≤ memSize) := by simp only [memSize]; omega
  rw [State.loadBytes_eq, if_neg this]

/-- Every state and instruction has a next state in the list, and it is the one `exec` answers. -/
theorem exec_cases (i : Instr) (s : State) : ∃ t, exec i s = .next t ∧ ExecTo s i t := by
  cases i with
  | ret =>
    rcases List.eq_nil_or_concat s.stack with h | ⟨older, w, h⟩
    · exact ⟨_, by simp only [exec, execRet, s.pop_nil h], .retEmpty h⟩
    · rw [List.concat_eq_append] at h
      exact ⟨_, by simp only [exec, execRet, s.pop_concat older w h]; rfl, .retPop older w h⟩
  | call nnn =>
    by_cases h : s.stack.length < s.cfg.stackDepth
    · exact ⟨_, by simp only [exec, execCall, State.push_eq, if_pos h]; rfl, .callPush nnn h⟩
    · exact ⟨_, by simp only [exec, execCall, State.push_eq, if_neg h], .callFull nnn (by omega)⟩
  | storeBcd x =>
    have l : (bcdDigits (s.getV x)).length = 3 := rfl
    by_cases h : s.i.toNat + 2 ≤ 0xFFF
    · exact ⟨_, by simp only [exec, execStoreBcd, s.storeBytes_inside (bcdDigits (s.getV x)) (by omega)], .storeBcd x h⟩
    · exact ⟨_, by simp only [exec, execStoreBcd, s.storeBytes_outside (bcdDigits (s.getV x)) (by omega) (by omega)],
        .storeBcdOutside x (by omega)⟩
  | regDump x =>
    have l := s.length_regsUpTo x
    by_cases h : s.i.toNat + x.toNat ≤ 0xFFF
    · exact ⟨_, by simp only [exec, execRegDump, s.storeBytes_inside (s.regsUpTo x) (by omega)], .regDump x h⟩
    · exact ⟨_, by simp only [exec, execRegDump, s.storeBytes_outside (s.regsUpTo x) (by omega) (by omega)],
        .regDumpOutside x (by omega)⟩
  | regLoad x =>
    by_cases h : s.i.toNat + x.toNat ≤ 0xFFF
    · exact ⟨_, by simp only [exec, execRegLoad, s.loadBytes_inside (x.toNat + 1) (by omega)], .regLoad x h⟩
    · exact ⟨_, by simp only [exec, execRegLoad, s.loadBytes_outside (x.toNat + 1) (by omega) (by omega)],
        .regLoadOutside x (by omega)⟩
  | draw x y n =>
    by_cases h : n.toNat = 0 ∨ s.i.toNat + n.toNat - 1 ≤ 0xFFF
    · exact ⟨_, by simp only [exec, execDraw, s.loadBytes_inside n.toNat (by omega)], .draw x y n _ h rfl⟩
    · exact ⟨_, by simp only [exec, execDraw, s.loadBytes_outside n.toNat (by omega) (by omega)],
        .drawOutside x y n (by omega) (by omega)⟩
  | waitKey x =>
    cases h : s.firstKey with
    | some k => exact ⟨_, by simp only [exec, execWaitKey, h], .waitKey x k h⟩
    | none => exact ⟨_, by simp only [exec, execWaitKey, h], .waitKeyNone x h⟩
  | clear => exact ⟨_, rfl, .clear⟩
  | jump nnn => exact ⟨_, rfl, .jump nnn⟩
  | skipEqImm x nn => exact ⟨_, rfl, .skipEqImm x nn⟩
  | skipNeqImm x nn => exact ⟨_, rfl, .skipNeqImm x nn⟩
  | skipEqReg x y n => exact ⟨_, rfl, .skipEqReg x y n⟩
  | loadImm x nn => exact ⟨_, rfl, .loadImm x nn⟩
  | addImm x nn => exact ⟨_, rfl, .addImm x nn⟩
  | copy x y => exact ⟨_, rfl, .copy x y⟩
  | or x y => exact ⟨_, rfl, .or x y⟩
  | and x y => exact ⟨_, rfl, .and x y⟩
  | xor x y => exact ⟨_, rfl, .xor x y⟩
  | add x y => exact ⟨_, rfl, .add x y⟩
  | sub x y => exact ⟨_, rfl, .sub x y⟩
  | shr x y => exact ⟨_, rfl, .shr x y⟩
  | subn x y => exact ⟨_, rfl, .subn x y⟩
  | shl x y => exact ⟨_, rfl, .shl x y⟩
  | skipNeqReg x y n => exact ⟨_, rfl, .skipNeqReg x y n⟩
  | setIndex nnn => exact ⟨_, rfl, .setIndex nnn⟩
  | jumpOffset nnn x => exact ⟨_, rfl, .jumpOffset nnn x⟩
  | random x nn => exact ⟨_, rfl, .random x nn⟩
  | keyPressed x => exact ⟨_, rfl, .keyPressed x⟩
  | keyNotPressed x => exact ⟨_, rfl, .keyNotPressed x⟩
  | getDelay x => exact ⟨_, rfl, .getDelay x⟩
  | setDelay x => exact ⟨_, rfl, .setDelay x⟩
  | setSound x => exact ⟨_, rfl, .setSound x⟩
  | addIndex x => exact ⟨_, rfl, .addIndex x⟩
  | spriteAddr x => exact ⟨_, rfl, .spriteAddr x⟩

/-- The inversion: a next state of `exec` is one of the list. -/
theorem exec_to {i : Instr} {s t : State} (h : exec i s = .next t) : ExecTo s i t := by
  obtain ⟨u, hu, e⟩ := exec_cases i s
  rw [hu] at h
  injection h with h
  exact h ▸ e

/-- The converse: every next state of the list is the one `exec` answers. -/
theorem ExecTo.exec_eq {i : Instr} {s t : State} (e : ExecTo s i t) : exec i s = .next t := by
  cases e with
  | retPop older w h => simp only [exec, execRet, s.pop_concat older w h]; rfl
  | retEmpty h => simp only [exec, execRet, s.pop_nil h]
  | callPush nnn h => simp only [exec, execCall, State.push_eq, if_pos h]; rfl
  | callFull nnn h => simp only [exec, execCall, State.push_eq, if_neg (Nat.not_lt.mpr h)]
  | storeBcd x h =>
    have l : (bcdDigits (s.getV x)).length = 3 := rfl
    simp only [exec, execStoreBcd, s.storeBytes_inside (bcdDigits (s.getV x)) (by omega)]
  | storeBcdOutside x h =>
    have l : (bcdDigits (s.getV x)).length = 3 := rfl
    simp only [exec, execStoreBcd, s.storeBytes_outside (bcdDigits (s.getV x)) (by omega) (by omega)]
  | regDump x h =>
    have l := s.length_regsUpTo x
    simp only [exec, execRegDump, s.storeBytes_inside (s.regsUpTo x) (by omega)]
  | regDumpOutside x h =>
    have l := s.length_regsUpTo x
    simp only [exec, execRegDump, s.storeBytes_outside (s.regsUpTo x) (by omega) (by omega)]
  | regLoad x h => simp only [exec, execRegLoad, s.loadBytes_inside (x.toNat + 1) (by omega)]
  | regLoadOutside x h => simp only [exec, execRegLoad, s.loadBytes_outside (x.toNat + 1) (by omega) (by omega)]
  | draw x y n bytes h hb => subst hb; simp only [exec, execDraw, s.loadBytes_inside n.toNat (by omega)]
  | drawOutside x y n h h' => simp only [exec, execDraw, s.loadBytes_outside n.toNat (by omega) (by omega)]
  | waitKey x k h => simp only [exec, execWaitKey, h]
  | waitKeyNone x h => simp only [exec, execWaitKey, h]
  | _ => rfl

end Sys2Proof.Machine
end

