-- ==== Sys2Proof/Laws/PerInstr.lean ====
section
/-! SUPPORT. The family `RowOfInstr`: every instruction's word selects the instruction's own row of the opcode table
(spec/30_encoding.md R84), the row with its mnemonic. -/

namespace Sys2Proof.Laws.RowOfInstr

/-- Some row of the table has the instruction's mnemonic and is selected by its word. -/
def Statement (i : Instr) : Prop := ∃ r ∈ opcodeTable, r.mnemonic = i.mnemonic ∧ r.selects (encode i) = true

/-- The mask `0xF000` keeps the first nibble. -/
theorem nibble_of_packNNN (op : Nibble) (nnn : Addr) : packNNN op nnn &&& 0xF000 = packNNN op 0#12 := by
  rw [show (0xF000 : Word) = packNNN 0xF#4 0x000#12 by decide]
  unfold packNNN
  rw [BitVec.and_append, BitVec.and_zero, show op &&& 0xF#4 = op from BitVec.and_allOnes]

theorem nibble_of_packXNN (op x : Nibble) (nn : Byte) : packXNN op x nn &&& 0xF000 = packNNN op 0#12 := by
  have h := nibble_of_packNNN (fieldOp (packXNN op x nn)) (fieldNNN (packXNN op x nn))
  rwa [packNNN_fields, fieldOp_packXNN] at h

theorem nibble_of_packXYN (op x y n : Nibble) : packXYN op x y n &&& 0xF000 = packNNN op 0#12 := by
  have h := nibble_of_packNNN (fieldOp (packXYN op x y n)) (fieldNNN (packXYN op x y n))
  rwa [packNNN_fields, fieldOp_packXYN] at h

/-- The mask `0xF00F` keeps the first and the last nibble. -/
theorem ends_of_packXYN (op x y n : Nibble) : packXYN op x y n &&& 0xF00F = packXYN op 0#4 0#4 n := by
  rw [show (0xF00F : Word) = packXYN 0xF#4 0x0#4 0x0#4 0xF#4 by decide]
  unfold packXYN
  rw [BitVec.and_append, BitVec.and_append, BitVec.and_append, BitVec.and_zero, BitVec.and_zero,
    show op &&& 0xF#4 = op from BitVec.and_allOnes, show n &&& 0xF#4 = n from BitVec.and_allOnes]

/-- The mask `0xF0FF` keeps the first nibble and the low byte. -/
theorem ends_of_packXNN (op x : Nibble) (nn : Byte) : packXNN op x nn &&& 0xF0FF = packXNN op 0#4 nn := by
  rw [show (0xF0FF : Word) = packXNN 0xF#4 0x0#4 0xFF#8 by decide]
  unfold packXNN
  rw [BitVec.and_append, BitVec.and_append, BitVec.and_zero,
    show op &&& 0xF#4 = op from BitVec.and_allOnes, show nn &&& 0xFF#8 = nn from BitVec.and_allOnes]

theorem clear : Statement (.clear) :=
  ⟨⟨"CLEAR", 0xFFFF, 0x00E0⟩, by decide, rfl, by decide⟩

theorem ret : Statement (.ret) :=
  ⟨⟨"RETURN", 0xFFFF, 0x00EE⟩, by decide, rfl, by decide⟩

theorem jump (nnn : Addr) : Statement (.jump nnn) :=
  ⟨⟨"JUMP", 0xF000, 0x1000⟩, by decide, rfl, by simp only [Row.selects, encode, nibble_of_packNNN]; decide⟩

theorem call (nnn : Addr) : Statement (.call nnn) :=
  ⟨⟨"CALL", 0xF000, 0x2000⟩, by decide, rfl, by simp only [Row.selects, encode, nibble_of_packNNN]; decide⟩

theorem skipEqImm (x : Nibble) (nn : Byte) : Statement (.skipEqImm x nn) :=
  ⟨⟨"SKIPEQ_IMM", 0xF000, 0x3000⟩, by decide, rfl, by simp only [Row.selects, encode, nibble_of_packXNN]; decide⟩

theorem skipNeqImm (x : Nibble) (nn : Byte) : Statement (.skipNeqImm x nn) :=
  ⟨⟨"SKIPNEQ_IMM", 0xF000, 0x4000⟩, by decide, rfl, by simp only [Row.selects, encode, nibble_of_packXNN]; decide⟩

theorem skipEqReg (x : Nibble) (y : Nibble) (n : Nibble) : Statement (.skipEqReg x y n) :=
  ⟨⟨"SKIPEQ_REG", 0xF000, 0x5000⟩, by decide, rfl, by simp only [Row.selects, encode, nibble_of_packXYN]; decide⟩

theorem loadImm (x : Nibble) (nn : Byte) : Statement (.loadImm x nn) :=
  ⟨⟨"LOAD_IMM", 0xF000, 0x6000⟩, by decide, rfl, by simp only [Row.selects, encode, nibble_of_packXNN]; decide⟩

theorem addImm (x : Nibble) (nn : Byte) : Statement (.addImm x nn) :=
  ⟨⟨"ADD_IMM", 0xF000, 0x7000⟩, by decide, rfl, by simp only [Row.selects, encode, nibble_of_packXNN]; decide⟩

theorem copy (x : Nibble) (y : Nibble) : Statement (.copy x y) :=
  ⟨⟨"COPY", 0xF00F, 0x8000⟩, by decide, rfl, by simp only [Row.selects, encode, ends_of_packXYN]; decide⟩

theorem or (x : Nibble) (y : Nibble) : Statement (.or x y) :=
  ⟨⟨"OR", 0xF00F, 0x8001⟩, by decide, rfl, by simp only [Row.selects, encode, ends_of_packXYN]; decide⟩

theorem and (x : Nibble) (y : Nibble) : Statement (.and x y) :=
  ⟨⟨"AND", 0xF00F, 0x8002⟩, by decide, rfl, by simp only [Row.selects, encode, ends_of_packXYN]; decide⟩

theorem xor (x : Nibble) (y : Nibble) : Statement (.xor x y) :=
  ⟨⟨"XOR", 0xF00F, 0x8003⟩, by decide, rfl, by simp only [Row.selects, encode, ends_of_packXYN]; decide⟩

theorem add (x : Nibble) (y : Nibble) : Statement (.add x y) :=
  ⟨⟨"ADD", 0xF00F, 0x8004⟩, by decide, rfl, by simp only [Row.selects, encode, ends_of_packXYN]; decide⟩

theorem sub (x : Nibble) (y : Nibble) : Statement (.sub x y) :=
  ⟨⟨"SUB", 0xF00F, 0x8005⟩, by decide, rfl, by simp only [Row.selects, encode, ends_of_packXYN]; decide⟩

theorem shr (x : Nibble) (y : Nibble) : Statement (.shr x y) :=
  ⟨⟨"SHR", 0xF00F, 0x8006⟩, by decide, rfl, by simp only [Row.selects, encode, ends_of_packXYN]; decide⟩

theorem subn (x : Nibble) (y : Nibble) : Statement (.subn x y) :=
  ⟨⟨"SUBN", 0xF00F, 0x8007⟩, by decide, rfl, by simp only [Row.selects, encode, ends_of_packXYN]; decide⟩

theorem shl (x : Nibble) (y : Nibble) : Statement (.shl x y) :=
  ⟨⟨"SHL", 0xF00F, 0x800E⟩, by decide, rfl, by simp only [Row.selects, encode, ends_of_packXYN]; decide⟩

theorem skipNeqReg (x : Nibble) (y : Nibble) (n : Nibble) : Statement (.skipNeqReg x y n) :=
  ⟨⟨"SKIPNEQ_REG", 0xF000, 0x9000⟩, by decide, rfl, by simp only [Row.selects, encode, nibble_of_packXYN]; decide⟩

theorem setIndex (nnn : Addr) : Statement (.setIndex nnn) :=
  ⟨⟨"SET_INDEX", 0xF000, 0xA000⟩, by decide, rfl, by simp only [Row.selects, encode, nibble_of_packNNN]; decide⟩

theorem jumpOffset (nnn : Addr) (x : Nibble) : Statement (.jumpOffset nnn x) :=
  ⟨⟨"JUMP_OFFSET", 0xF000, 0xB000⟩, by decide, rfl, by simp only [Row.selects, encode, nibble_of_packNNN]; decide⟩

theorem random (x : Nibble) (nn : Byte) : Statement (.random x nn) :=
  ⟨⟨"RANDOM", 0xF000, 0xC000⟩, by decide, rfl, by simp only [Row.selects, encode, nibble_of_packXNN]; decide⟩

theorem draw (x : Nibble) (y : Nibble) (n : Nibble) : Statement (.draw x y n) :=
  ⟨⟨"DRAW", 0xF000, 0xD000⟩, by decide, rfl, by simp only [Row.selects, encode, nibble_of_packXYN]; decide⟩

theorem keyPressed (x : Nibble) : Statement (.keyPressed x) :=
  ⟨⟨"KEY_PRESSED", 0xF0FF, 0xE09E⟩, by decide, rfl, by simp only [Row.selects, encode, ends_of_packXNN]; decide⟩

theorem keyNotPressed (x : Nibble) : Statement (.keyNotPressed x) :=
  ⟨⟨"KEY_NOT_PRESSED", 0xF0FF, 0xE0A1⟩, by decide, rfl, by simp only [Row.selects, encode, ends_of_packXNN]; decide⟩

theorem getDelay (x : Nibble) : Statement (.getDelay x) :=
  ⟨⟨"GET_DELAY", 0xF0FF, 0xF007⟩, by decide, rfl, by simp only [Row.selects, encode, ends_of_packXNN]; decide⟩

theorem waitKey (x : Nibble) : Statement (.waitKey x) :=
  ⟨⟨"WAIT_KEY", 0xF0FF, 0xF00A⟩, by decide, rfl, by simp only [Row.selects, encode, ends_of_packXNN]; decide⟩

theorem setDelay (x : Nibble) : Statement (.setDelay x) :=
  ⟨⟨"SET_DELAY", 0xF0FF, 0xF015⟩, by decide, rfl, by simp only [Row.selects, encode, ends_of_packXNN]; decide⟩

theorem setSound (x : Nibble) : Statement (.setSound x) :=
  ⟨⟨"SET_SOUND", 0xF0FF, 0xF018⟩, by decide, rfl, by simp only [Row.selects, encode, ends_of_packXNN]; decide⟩

theorem addIndex (x : Nibble) : Statement (.addIndex x) :=
  ⟨⟨"ADD_INDEX", 0xF0FF, 0xF01E⟩, by decide, rfl, by simp only [Row.selects, encode, ends_of_packXNN]; decide⟩

theorem spriteAddr (x : Nibble) : Statement (.spriteAddr x) :=
  ⟨⟨"SPRITE_ADDR", 0xF0FF, 0xF029⟩, by decide, rfl, by simp only [Row.selects, encode, ends_of_packXNN]; decide⟩

theorem storeBcd (x : Nibble) : Statement (.storeBcd x) :=
  ⟨⟨"STORE_BCD", 0xF0FF, 0xF033⟩, by decide, rfl, by simp only [Row.selects, encode, ends_of_packXNN]; decide⟩

theorem regDump (x : Nibble) : Statement (.regDump x) :=
  ⟨⟨"REG_DUMP", 0xF0FF, 0xF055⟩, by decide, rfl, by simp only [Row.selects, encode, ends_of_packXNN]; decide⟩

theorem regLoad (x : Nibble) : Statement (.regLoad x) :=
  ⟨⟨"REG_LOAD", 0xF0FF, 0xF065⟩, by decide, rfl, by simp only [Row.selects, encode, ends_of_packXNN]; decide⟩

end Sys2Proof.Laws.RowOfInstr
end

