-- ==== Sys2Proof/Tests/Slice0.lean ====
section
/-! SUPPORT. Tests, each about one transition of a small state, and the witnesses of the statements' hypotheses. The words
and the expected results are those of spec/95_test_vectors.md; a test's docstring names its vector. -/

namespace Sys2Proof.Tests

open Sys2Proof Sys2Proof.Machine

set_option Elab.async false -- one test at a time: in parallel they need too many threads

/-! ## Helpers -/

/-- The start of the vectors: the state after reset with `pc = 0x200` and no redraw pending. -/
def base : State := { State.reset with pc := 0x0200, redraw := false }

/-- The same with both dialect flags the other way. -/
def other : State := { base with cfg := { base.cfg with shiftUsesY := true, jumpUsesV0 := false } }

/-- A state with some registers set. -/
def regs (s : State) (l : List (Nibble × Byte)) : State := l.foldl (fun s p => s.setV p.1 p.2) s

/-- A state with bytes in memory. -/
def bytes (s : State) (a : Nat) (l : List Byte) : State := { s with mem := s.mem.writeBytes s.cfg.font a l }

/-- A display with the listed cells lit, `(row, column)`. -/
def cells (l : List (Nat × Nat)) : Display := l.foldl (fun d p => d.set p.1 p.2 true) Display.blank

/-- The rows of a display as numbers, column 0 the most significant bit: a form that is cheap to compare. -/
def picture (d : Display) : List Nat := d.toList.map fun row => row.toList.foldl (fun n b => 2 * n + b.toNat) 0

/-- A state with the listed cells lit. -/
def lit (s : State) (l : List (Nat × Nat)) : State := { s with disp := cells l }

/-- A state with the listed keys down. -/
def down (s : State) (l : List Nibble) : State := l.foldl (fun s k => s.keyUpdate k true) s

/-- The word, placed at `pc`, is run by the next transition, which answers a next state that passes. -/
def runs (w : Word) (s : State) (p : State → Bool) : Bool :=
  match step (s.placeWord w) with
  | .next t => p t
  | .fault _ => false
  | .refused _ => false

/-- The transition answers a next state that passes. -/
def goes (tr : Transition) (s : State) (p : State → Bool) : Bool :=
  match step { s with agenda := [tr] } with
  | .next t => p t
  | .fault _ => false
  | .refused _ => false

/-- The instruction answers a next state that passes. -/
def execs (i : Instr) (s : State) (p : State → Bool) : Bool :=
  match exec i s with
  | .next t => p t
  | .fault _ => false
  | .refused _ => false

/-- `n` bytes of the memory from `a` on. -/
def dump (t : State) (a n : Nat) : List Byte := t.mem.readBytes t.cfg.font a n

/-! ## WellFormed: each check refuses an ill-formed term -/

/-- R72: the one check, that X is the top nibble of NNN. -/
theorem test_wellFormed_jumpOffset_refused : ¬ (Instr.jumpOffset 0x123 0x2).WellFormed := by decide
theorem test_wellFormed_jumpOffset : (Instr.jumpOffset 0x123 0x1).WellFormed := by decide

/-! ## Decode: a word for every constructor, written bit by bit (OP, X, Y, N) from spec/30_encoding.md R84 -/

/-- T-E2, T-E3. -/
theorem test_decode_family0 :
    decode 0b0000_0000_1110_0000 = .ok .clear ∧ decode 0b0000_0000_1110_1110 = .ok .ret := by decide

/-- T-E7, T-E16, T-E17 and the JUMP of T-S3v. -/
theorem test_decode_nnn :
    decode 0b0001_1010_1011_1100 = .ok (.jump 0xABC) ∧ decode 0b0010_1010_1011_1100 = .ok (.call 0xABC) ∧
    decode 0b1010_0001_0010_0011 = .ok (.setIndex 0x123) ∧
    decode 0b1011_0001_0010_0011 = .ok (.jumpOffset 0x123 0x1) := by decide

/-- T-E8 to T-E13, T-E18. -/
theorem test_decode_xnn :
    decode 0b0011_1010_0111_1111 = .ok (.skipEqImm 0xA 0x7F) ∧ decode 0b0100_1010_0111_1111 = .ok (.skipNeqImm 0xA 0x7F) ∧
    decode 0b0110_1010_1111_1111 = .ok (.loadImm 0xA 0xFF) ∧ decode 0b0111_0000_0000_0001 = .ok (.addImm 0x0 0x01) ∧
    decode 0b1100_0001_0000_1111 = .ok (.random 0x1 0x0F) := by decide

/-- T-E10, T-E11, T-E19. -/
theorem test_decode_xyn :
    decode 0b0101_0001_0010_1111 = .ok (.skipEqReg 0x1 0x2 0xF) ∧ decode 0b1001_1010_1011_1111 = .ok (.skipNeqReg 0xA 0xB 0xF) ∧
    decode 0b1101_0001_0010_0101 = .ok (.draw 0x1 0x2 0x5) ∧ decode 0b1101_0001_0010_0000 = .ok (.draw 0x1 0x2 0x0) := by decide

/-- T-E14, the first five of family 8. -/
theorem test_decode_family8_low :
    decode 0b1000_0001_0010_0000 = .ok (.copy 0x1 0x2) ∧ decode 0b1000_1010_1011_0001 = .ok (.or 0xA 0xB) ∧
    decode 0b1000_1010_1011_0010 = .ok (.and 0xA 0xB) ∧ decode 0b1000_1010_1011_0011 = .ok (.xor 0xA 0xB) ∧
    decode 0b1000_1010_1011_0100 = .ok (.add 0xA 0xB) := by decide

/-- T-E14, the other four, and T-E15. -/
theorem test_decode_family8_high :
    decode 0b1000_1010_1011_0101 = .ok (.sub 0xA 0xB) ∧ decode 0b1000_1010_1011_0110 = .ok (.shr 0xA 0xB) ∧
    decode 0b1000_1010_1011_0111 = .ok (.subn 0xA 0xB) ∧ decode 0b1000_1010_1011_1110 = .ok (.shl 0xA 0xB) ∧
    decode 0b1000_1010_1011_1000 = .error (.unmapped 0x8AB8) := by decide

/-- T-E20, T-E21, T-E22. -/
theorem test_decode_familyE :
    decode 0b1110_0001_1001_1110 = .ok (.keyPressed 0x1) ∧ decode 0b1110_1111_1010_0001 = .ok (.keyNotPressed 0xF) ∧
    decode 0b1110_0001_1001_1111 = .error (.unmapped 0xE19F) := by decide

/-- T-E23, the timers and the key. -/
theorem test_decode_familyF_timers :
    decode 0b1111_0001_0000_0111 = .ok (.getDelay 0x1) ∧ decode 0b1111_0011_0000_1010 = .ok (.waitKey 0x3) ∧
    decode 0b1111_0001_0001_0101 = .ok (.setDelay 0x1) ∧ decode 0b1111_0001_0001_1000 = .ok (.setSound 0x1) := by decide

/-- T-E23, the index register and memory, and T-E24. -/
theorem test_decode_familyF_memory :
    decode 0b1111_0011_0001_1110 = .ok (.addIndex 0x3) ∧ decode 0b1111_0001_0010_1001 = .ok (.spriteAddr 0x1) ∧
    decode 0b1111_0100_0011_0011 = .ok (.storeBcd 0x4) ∧ decode 0b1111_0010_0101_0101 = .ok (.regDump 0x2) ∧
    decode 0b1111_1111_0110_0101 = .ok (.regLoad 0xF) ∧ decode 0b1111_1111_1111_1111 = .error (.unmapped 0xFFFF) := by decide

/-- T-E25: big-endian, and the bytes after the word are left. -/
theorem test_decodeBytes : decodeBytes [0x12, 0x34, 0x56] = .ok (.jump 0x234, [0x56]) ∧
    decodeBytes [0x12] = .error .truncated := by decide

/-- The number of a two-byte table row is its word (spec/30_encoding.md R70). -/
theorem test_decodeTableWord : decodeTableWord 16 0xF265 = some (.regLoad 0x2) := by decide

/-- Lines of the program listings of spec/95_test_vectors.md section 3, and R83. -/
theorem test_spell :
    spellWord 0x613E = "LOAD_IMM V1, 0x3E" ∧ spellWord 0xD122 = "DRAW V1, V2, 2" ∧ spellWord 0x2210 = "CALL 0x210" ∧
    spellWord 0x00EE = "RETURN" ∧ spellWord 0x00E1 = ".word 0x00E1" := by decide +kernel

/-! ## Control transfer and the step cycle -/

/-- T-F1. -/
theorem test_unmapped_advances :
    runs 0xFFFF base (fun t => t == { (base.placeWord 0xFFFF).popAgenda with pc := 0x0202, started := true }) = true := by
  decide +kernel
/-- T-F2. -/
theorem test_jump_self : runs 0x1200 base (fun t => t.pc == 0x0200) = true := by decide +kernel
/-- T-S3v: JUMP with registers and stack untouched. -/
theorem test_jump : runs 0x1ABC (regs base [(3, 7)]) (fun t => t.pc == 0x0ABC && t.getV 3 == 7 && t.stack == []) = true := by
  decide +kernel
/-- T-F4. -/
theorem test_call : runs 0x2300 base (fun t => t.stack == [0x0202] && t.pc == 0x0300) = true := by decide +kernel
/-- T-X2: the 17th CALL. -/
theorem test_call_overflow :
    runs 0x2300 { base with stack := List.replicate 16 0x0400 }
      (fun t => t.err == .stackOverflow && t.err.code == 2 && t.pc == 0x0202 && t.stack == List.replicate 16 0x0400) = true := by
  decide +kernel
/-- T-F6: last in, first out. -/
theorem test_ret :
    runs 0x00EE { base with pc := 0x0500, stack := [0x0202, 0x0404] } (fun t => t.pc == 0x0404 && t.stack == [0x0202]) = true := by
  decide +kernel
/-- T-X1. -/
theorem test_ret_empty :
    runs 0x00EE base (fun t => t.err == .emptyStack && t.err.code == 1 && t.pc == 0x0202 && t.stack == []) = true := by
  decide +kernel
/-- T-F8: the offset is `V[2]` where the flag is false. -/
theorem test_jumpOffset_x : runs 0xB210 (regs other [(0, 0x04), (2, 0x30)]) (fun t => t.pc == 0x0240) = true := by
  decide +kernel
/-- T-F9: `V[0]`, and the sum is not reduced. -/
theorem test_jumpOffset_v0 : runs 0xBFFF (regs base [(0, 0xFF)]) (fun t => t.pc == 0x10FE) = true := by decide +kernel
/-- T-X4. -/
theorem test_fetch_outside :
    goes .step { base with pc := 0x0FFF } (fun t => t.err == .fetchBounds && t.err.code == 3 && t.pc == 0x0FFF) = true := by
  decide +kernel
/-- T-X5: the last word of the memory is fetched. -/
theorem test_fetch_last : runs 0x1200 { base with pc := 0x0FFE } (fun t => t.pc == 0x0200 && t.err == .none) = true := by
  decide +kernel
/-- T-F13: no change at all. -/
theorem test_halted_step :
    goes .step { base with pc := 0x0202, err := .emptyStack } (fun t => t == { base with pc := 0x0202, err := .emptyStack }) = true := by
  decide +kernel
/-- T-F12: an odd `pc`. -/
theorem test_fetch_odd : runs 0x6A55 { base with pc := 0x0201 } (fun t => t.getV 10 == 0x55 && t.pc == 0x0203) = true := by
  decide +kernel

/-! ## Skips -/

/-- T-K1, T-K2. -/
theorem test_skipEqImm :
    runs 0x3A7F (regs base [(10, 0x7F)]) (fun t => t.pc == 0x0204) = true ∧
    runs 0x3A7F (regs base [(10, 0x7E)]) (fun t => t.pc == 0x0202) = true := by decide +kernel
/-- T-K3, T-K4. -/
theorem test_skipNeqImm :
    runs 0x4A7F (regs base [(10, 0x7F)]) (fun t => t.pc == 0x0202) = true ∧
    runs 0x4A7F (regs base [(10, 0x7E)]) (fun t => t.pc == 0x0204) = true := by decide +kernel
/-- T-K7, T-K6. -/
theorem test_skipEqReg :
    runs 0x512F (regs base [(1, 5), (2, 5)]) (fun t => t.pc == 0x0204) = true ∧
    runs 0x5120 (regs base [(1, 5), (2, 6)]) (fun t => t.pc == 0x0202) = true := by decide +kernel
/-- T-K9, T-K10. -/
theorem test_skipNeqReg :
    runs 0x9120 (regs base [(1, 5), (2, 6)]) (fun t => t.pc == 0x0204) = true ∧
    runs 0x9120 (regs base [(1, 5), (2, 5)]) (fun t => t.pc == 0x0202) = true := by decide +kernel
/-- T-K13: a skip at the top of the memory, not reduced. -/
theorem test_skip_top : runs 0x3000 { base with pc := 0x0FFE } (fun t => t.pc == 0x1002 && t.err == .none) = true := by
  decide +kernel

/-! ## Register and immediate -/

/-- T-R2: VF is an ordinary destination. -/
theorem test_loadImm : runs 0x6F7E (regs base [(15, 0x01)]) (fun t => t.getV 15 == 0x7E) = true := by decide +kernel
/-- T-R4. -/
theorem test_addImm : runs 0x7A0A (regs base [(10, 0xFA), (15, 0x55)]) (fun t => t.getV 10 == 0x04 && t.getV 15 == 0x55) = true := by
  decide +kernel
/-- T-R6: VF as the destination wraps as any register. -/
theorem test_addImm_vf : runs 0x7F02 (regs base [(15, 0xFF)]) (fun t => t.getV 15 == 0x01) = true := by decide +kernel
/-- T-R8: any draw. -/
theorem test_random_mask_zero (s : State) : ∃ t, exec (.random 0x1 0x00) s = .next t ∧ t.getV 1 = 0x00 ∧ t.draws = s.draws + 1 :=
  ⟨_, rfl, by rw [State.getV_setV]; simp, rfl⟩
/-- T-R7. -/
theorem test_random_mask (s : State) (h : Config.randomByte s.draws = 0xA7) :
    ∃ t, exec (.random 0x1 0x0F) s = .next t ∧ t.getV 1 = 0x07 :=
  ⟨_, rfl, by rw [State.getV_setV, if_pos rfl, State.rand, h]; decide⟩

/-! ## Register to register, VF = 0xAA before -/

/-- The registers of spec/95_test_vectors.md section 2.5. -/
def xy (s : State) (a b : Byte) : State := regs s [(1, a), (2, b), (15, 0xAA)]

/-- What they are after. -/
def left (a b f : Byte) (t : State) : Bool := t.getV 1 == a && t.getV 2 == b && t.getV 15 == f && t.pc == 0x0202

/-- T-A1. -/
theorem test_copy : runs 0x8120 (xy base 0x11 0x5C) (left 0x5C 0x5C 0xAA) = true := by decide +kernel
/-- T-A2. -/
theorem test_or : runs 0x8121 (xy base 0xF0 0x3C) (left 0xFC 0x3C 0xAA) = true := by decide +kernel
/-- T-A3. -/
theorem test_and : runs 0x8122 (xy base 0xF0 0x3C) (left 0x30 0x3C 0xAA) = true := by decide +kernel
/-- T-A4. -/
theorem test_xor : runs 0x8123 (xy base 0xF0 0x3C) (left 0xCC 0x3C 0xAA) = true := by decide +kernel
/-- T-A6, T-A7: the sums 255 and 256. -/
theorem test_add :
    runs 0x8124 (xy base 0xFF 0x00) (left 0xFF 0x00 0x00) = true ∧ runs 0x8124 (xy base 0xFF 0x01) (left 0x00 0x01 0x01) = true := by
  decide +kernel
/-- T-A30: X is 15, the carry stays. -/
theorem test_add_vf : runs 0x8F24 (regs base [(15, 0xF0), (2, 0x20)]) (fun t => t.getV 15 == 0x01) = true := by decide +kernel
/-- T-A10, T-A12. -/
theorem test_sub :
    runs 0x8125 (xy base 0x0A 0x14) (left 0xF6 0x14 0x00) = true ∧ runs 0x8125 (xy base 0x33 0x33) (left 0x00 0x33 0x01) = true := by
  decide +kernel
/-- T-A32. -/
theorem test_sub_vf : runs 0x8F25 (regs base [(15, 0x05), (2, 0x03)]) (fun t => t.getV 15 == 0x01) = true := by decide +kernel
/-- T-A15, T-A16. -/
theorem test_subn :
    runs 0x8127 (xy base 0x0A 0x14) (left 0x0A 0x14 0x01) = true ∧ runs 0x8127 (xy base 0x14 0x0A) (left 0xF6 0x0A 0x00) = true := by
  decide +kernel
/-- T-A20, T-A21. -/
theorem test_shr :
    runs 0x8126 (xy base 0x01 0xFE) (left 0x00 0xFE 0x01) = true ∧ runs 0x8126 (xy other 0x01 0xFE) (left 0x7F 0xFE 0x00) = true := by
  decide +kernel
/-- T-A34: the shifted value 1 is lost. -/
theorem test_shr_vf : runs 0x8FF6 (regs base [(15, 0x02)]) (fun t => t.getV 15 == 0x00) = true := by decide +kernel
/-- T-A24, T-A25. -/
theorem test_shl :
    runs 0x812E (xy base 0x81 0x40) (left 0x02 0x40 0x01) = true ∧ runs 0x812E (xy other 0x81 0x40) (left 0x80 0x40 0x00) = true := by
  decide +kernel

/-! ## Index register and memory -/

/-- T-M26. -/
theorem test_setIndex : runs 0xA2F0 base (fun t => t.i == 0x02F0) = true := by decide +kernel
/-- T-M1, T-M6: the crossing, and the wrap, which is none. -/
theorem test_addIndex :
    runs 0xF31E (regs { base with i := 0x0FFF } [(3, 1), (15, 0x55)]) (fun t => t.i == 0x1000 && t.getV 15 == 0x01) = true ∧
    runs 0xF31E (regs { base with i := 0xFFFF } [(3, 2), (15, 0x55)]) (fun t => t.i == 0x0001 && t.getV 15 == 0x00) = true := by
  decide +kernel
/-- T-M8: the old VF is the operand. -/
theorem test_addIndex_vf :
    runs 0xFF1E (regs { base with i := 0x0FFE } [(15, 3)]) (fun t => t.i == 0x1001 && t.getV 15 == 0x01) = true := by
  decide +kernel
/-- T-M9: only the low nibble counts. -/
theorem test_spriteAddr :
    runs 0xF129 (regs base [(1, 0x0F)]) (fun t => t.i == 0x004B) = true ∧
    runs 0xF129 (regs base [(1, 0x1A)]) (fun t => t.i == 0x0032) = true := by decide +kernel
/-- T-M12: the last legal base. -/
theorem test_storeBcd :
    runs 0xF433 (regs { base with i := 0x0FFD } [(4, 123)]) (fun t => dump t 0xFFD 3 == [1, 2, 3] && t.i == 0x0FFD) = true := by
  decide +kernel
/-- T-M13. -/
theorem test_storeBcd_outside :
    runs 0xF433 (regs { base with i := 0x0FFE } [(4, 123)])
      (fun t => dump t 0xFFD 3 == [0, 0, 0] && t.history == [.warning (.bcdBounds 0x0FFE)] && t.pc == 0x0202) = true := by
  decide +kernel
/-- T-M15: X + 1 registers, no more. -/
theorem test_regDump :
    runs 0xF255 (regs { base with i := 0x0300 } [(0, 0x11), (1, 0x22), (2, 0x33), (3, 0x44)])
      (fun t => dump t 0x300 4 == [0x11, 0x22, 0x33, 0x00] && t.i == 0x0300) = true := by decide +kernel
/-- T-M18: all or nothing. -/
theorem test_regDump_outside :
    runs 0xF355 (regs { base with i := 0x0FFE } [(0, 1), (1, 2), (2, 3), (3, 4)])
      (fun t => dump t 0xFFE 2 == [0, 0] && t.history == [.warning (.dumpBounds 0x0FFE 3)]) = true := by decide +kernel
/-- T-M22. -/
theorem test_regLoad :
    runs 0xF165 (regs (bytes { base with i := 0x0300 } 0x300 [0xAA, 0xBB, 0xCC]) [(2, 0x77)])
      (fun t => t.getV 0 == 0xAA && t.getV 1 == 0xBB && t.getV 2 == 0x77 && t.i == 0x0300) = true := by decide +kernel
/-- T-M24. -/
theorem test_regLoad_outside :
    runs 0xF165 (regs (bytes { base with i := 0x0FFF } 0xFFF [0x5A]) [(1, 0x77)])
      (fun t => t.getV 0 == 0x00 && t.getV 1 == 0x77 && t.history == [.warning (.loadBounds 0x0FFF 1)]) = true := by
  decide +kernel
/-- T-M27: the font can be written; the listing keeps its form (writing back the font's byte unlists it). -/
theorem test_font_writable :
    dump (bytes base 0x000 [0xAB]) 0 2 = [0xAB, 0x90] ∧ (bytes (bytes base 0x000 [0xAB]) 0x000 [0xF0]).mem = [] := by
  decide +kernel

/-! ## Display, VF = 0x55 before, the sprite at 0x300 -/

/-- The start of spec/95_test_vectors.md section 2.6. -/
def sprite (x y : Byte) (l : List Byte) (pre : List (Nat × Nat)) : State :=
  lit (bytes (regs { base with i := 0x0300 } [(1, x), (2, y), (15, 0x55)]) 0x300 l) pre

/-- T-D16. -/
theorem test_clear :
    runs 0x00E0 (lit (regs base [(15, 0x55)]) [(3, 7), (31, 63)])
      (fun t => picture t.disp == picture (Display.blank) && t.getV 15 == 0x55 && t.redraw) = true := by decide +kernel
/-- T-D9: one colliding pixel is enough, a cell under a 0 bit stays. -/
theorem test_draw_collision :
    runs 0xD121 (sprite 0 0 [0xF0] [(0, 3), (0, 4)])
      (fun t => picture t.disp == picture (cells [(0, 0), (0, 1), (0, 2), (0, 4)]) && t.getV 15 == 0x01 && t.redraw) = true := by decide +kernel
/-- T-D18, T-D19: clipped at the right edge and at the bottom, no wrap. -/
theorem test_draw_clips :
    runs 0xD122 (sprite 62 5 [0xFF, 0xFF] []) (fun t => picture t.disp == picture (cells [(5, 62), (5, 63), (6, 62), (6, 63)]) && t.getV 15 == 0x00) = true ∧
    runs 0xD122 (sprite 0 31 [0x80, 0x80] [(0, 0)]) (fun t => picture t.disp == picture (cells [(0, 0), (31, 0)]) && t.getV 15 == 0x00) = true := by
  decide +kernel
/-- T-D13: skipped, VF and REDRAW keep their values. -/
theorem test_draw_outside :
    runs 0xD122 { sprite 0 0 [] [] with i := 0x0FFF }
      (fun t => picture t.disp == picture (Display.blank) && t.getV 15 == 0x55 && !t.redraw && t.history == [.warning (.drawBounds 0x0FFF 2)]) = true := by
  decide +kernel
/-- T-D20: the column is the old VF. -/
theorem test_draw_vf_column :
    runs 0xDF21 (regs (sprite 0 1 [0x80] []) [(15, 0x05)]) (fun t => picture t.disp == picture (cells [(1, 5)]) && t.getV 15 == 0x00) = true := by
  decide +kernel

/-! ## Keyboard -/

/-- T-B1, T-B5. -/
theorem test_keyPressed :
    runs 0xE19E (down (regs base [(1, 0x05)]) [5]) (fun t => t.pc == 0x0204) = true ∧
    runs 0xE19E (down (regs base [(1, 0x15)]) [5]) (fun t => t.pc == 0x0202) = true := by decide +kernel
/-- T-B4, T-B6. -/
theorem test_keyNotPressed :
    runs 0xE1A1 (down (regs base [(1, 0x05)]) [5]) (fun t => t.pc == 0x0202) = true ∧
    runs 0xE1A1 (down (regs base [(1, 0x15)]) [5]) (fun t => t.pc == 0x0204) = true := by decide +kernel
/-- T-B7. -/
theorem test_waitKey_none :
    runs 0xF30A base (fun t => t == { (base.placeWord 0xF30A).popAgenda with started := true }) = true := by decide +kernel
/-- T-B9, T-B11: the scan order is not the numeric order. -/
theorem test_waitKey_order :
    runs 0xF30A (down base [4, 0xC]) (fun t => t.getV 3 == 0x0C && t.pc == 0x0202 && t.latch 0xC) = true ∧
    runs 0xF30A (down base [0, 0xA]) (fun t => t.getV 3 == 0x0A) = true := by decide +kernel

/-! ## Timers -/

/-- T-T1. -/
theorem test_getDelay : runs 0xF107 { base with dt := 0x2A } (fun t => t.getV 1 == 0x2A && t.dt == 0x2A) = true := by decide +kernel
/-- T-T10. -/
theorem test_setDelay : runs 0xFF15 (regs base [(15, 0x09)]) (fun t => t.dt == 0x09 && t.st == 0x00 && t.getV 15 == 0x09) = true := by
  decide +kernel
/-- T-T3. -/
theorem test_setSound : runs 0xF118 (regs base [(1, 0x03)]) (fun t => t.st == 0x03 && t.dt == 0x00) = true := by decide +kernel
/-- T-T5, T-T6. -/
theorem test_tick :
    goes .tick { base with timersRunning := true, dt := 3, st := 1 }
      (fun t => t.dt == 2 && t.st == 0 && t.beep && t.history == [.beep true]) = true ∧
    goes .tick { base with timersRunning := true } (fun t => t.dt == 0 && t.st == 0 && !t.beep && t.history == [.beep false]) = true := by
  decide +kernel
/-- T-T9: a tick of a halted core. -/
theorem test_tick_halted :
    goes .tick { base with timersRunning := true, dt := 5, err := .fetchBounds } (fun t => t.dt == 4 && t.err == .fetchBounds) = true := by
  decide +kernel

/-! ## The host -/

/-- T-Z1: reset with the flags and rate of the vector, of a core that has a history. -/
theorem test_reset :
    goes (.reset true false 0) { regs base [(1, 5)] with pc := 0x0400, err := .emptyStack, st := 9, i := 3 }
      (fun t => t == { State.reset with cfg := { State.reset.cfg with shiftUsesY := true, jumpUsesV0 := false } }) = true := by
  decide +kernel
/-- T-Z2. -/
theorem test_reset_rate :
    heldRate (-5) = 700 ∧ heldRate 1000 = 1000 ∧ heldRate 1 = 1 ∧ heldRate 0 = 700 := by decide
/-- T-Z3. -/
theorem test_consumeFrame :
    goes .consumeFrame State.reset (fun t => !t.redraw && t.history == [.frame Display.blank]) = true ∧
    goes .consumeFrame base (fun t => t == base) = true := by decide +kernel
/-- T-Z4. -/
theorem test_loadRom :
    goes (.loadRom [0x12, 0x34, 0x56, 0x78]) State.reset (fun t => dump t 0x1FF 6 == [0x00, 0x12, 0x34, 0x56, 0x78, 0x00]) = true := by
  decide +kernel
/-- T-Z7. -/
theorem test_queryPC : goes .queryPC { base with pc := 0x0300 } (fun t => t.history == [.counter 0x0300]) = true := by decide +kernel
/-- T-B13, the last update. -/
theorem test_keyUpdate : goes (.keyUpdate 9 false) (down base [9]) (fun t => t == base) = true := by decide +kernel
/-- T-Z6: no tick before `Initialize`. -/
theorem test_tick_before_initialize : step { base with agenda := [.tick] } = .refused .tickBeforeInitialize := by rfl

/-! ## Witnesses: a state and operands that meet all hypotheses of a statement together

A statement with several clauses has a witness for each, at the boundary of its range. -/

/-- A core with a word placed at `0x200`, its `Step` next. -/
def ready (w : Word) : State := base.placeWord w

/-- A core whose next transition is `tr`. -/
def due (tr : Transition) : State := { base with agenda := [tr] }

/-- A core halted by a RETURN on an empty stack. -/
def halted : State := { base with pc := 0x0202, err := .emptyStack, started := true }

/-- A core whose timers run and sound. -/
def sounding : State := { base with timersRunning := true, st := 3, dt := 1 }

theorem test_witness_EncodedInstructionDecodesBack :
    (Instr.jumpOffset 0xFFF 0xF).WellFormed ∧ decode (encode (.jumpOffset 0xFFF 0xF)) = .ok (.jumpOffset 0xFFF 0xF) := by decide
theorem test_witness_DecodedWordEncodesBack : decode 0x5AB7 = .ok (.skipEqReg 0xA 0xB 0x7) := by decide
/-- Both sides of the equivalence, for one row. -/
theorem test_witness_DecodeFollowsOpcodeTable :
    (⟨"SHL", 0xF00F, 0x800E⟩ : Row) ∈ opcodeTable ∧ (⟨"SHL", 0xF00F, 0x800E⟩ : Row).selects 0x8ABE = true ∧
    (⟨"SHL", 0xF00F, 0x800E⟩ : Row).selects 0x8ABF = false := by decide
/-- One word for each clause. -/
theorem test_witness_UnmappedWordsByFamily :
    decode 0x00E1 = .error (.unmapped 0x00E1) ∧ decode 0x8ABF = .error (.unmapped 0x8ABF) ∧
    decode 0xE19F = .error (.unmapped 0xE19F) ∧ decode 0xF166 = .error (.unmapped 0xF166) := by decide

/-- `pc = 0x200`, and the last word of the memory. -/
theorem test_witness_StepRunsDecodedInstruction :
    (ready 0xA123).ReadyToFetch ∧ decode (ready 0xA123).wordAtPc = .ok (.setIndex 0x123) ∧
    ({ base with pc := 0x0FFE }.placeWord 0x1200).ReadyToFetch :=
  ⟨⟨rfl, rfl, by decide⟩, by decide +kernel, ⟨rfl, rfl, by decide +kernel⟩⟩
theorem test_witness_UnmappedWordOnlyAdvances :
    (ready 0xFFFF).ReadyToFetch ∧ ∀ r ∈ opcodeTable, r.selects (ready 0xFFFF).wordAtPc = false :=
  ⟨⟨rfl, rfl, by decide⟩, by decide +kernel⟩
theorem test_witness_FetchOutsideMemoryHalts :
    base.nextTransition = .step ∧ base.err = .none ∧ 0xFFE < ({ base with pc := 0x0FFF } : State).pc.toNat := by decide +kernel
theorem test_witness_HaltedCoreTakesNoStep : halted.nextTransition = .step ∧ halted.Halted := by decide +kernel
/-- The three refusals. -/
theorem test_witness_OnlyMeaninglessHostTransitionsStop :
    step (due .tick) = .refused .tickBeforeInitialize ∧
    step { sounding with agenda := [.initializeTimers] } = .refused .initializeTwice ∧
    step { halted with agenda := [.loadRom [1]] } = .refused .loadRomAfterStep := ⟨rfl, rfl, rfl⟩

theorem test_witness_ReturnPopsNewestEntry :
    ({ base with stack := [0x0202, 0x0404] } : State).stack = [0x0202] ++ [0x0404] ∧ base.stack = [] := by decide +kernel
theorem test_witness_JumpTargets : (0xF : Nibble).toNat = (0xFFF : Addr).toNat / 256 := by decide
/-- 15 entries and 16. -/
theorem test_witness_CallPushesAdvancedCounter :
    ({ base with stack := List.replicate 15 0x0400 } : State).stack.length < base.cfg.stackDepth ∧
    ({ base with stack := List.replicate 16 0x0400 } : State).stack.length = base.cfg.stackDepth := by decide +kernel
theorem test_witness_ReturnUndoesCall :
    ∃ t : State, exec (.call 0x300) base = .next t ∧ t.err = base.err ∧ base.err = .none ∧
      ({ halted with stack := t.stack } : State).stack = t.stack := ⟨_, rfl, rfl, rfl, rfl⟩
/-- The key codes `0x0F` and `0x10`. -/
theorem test_witness_SkipsOnKey :
    ((regs base [(1, 0x0F)]).getV 1).toNat = (0xF : Nibble).toNat ∧ 0x0F < ((regs base [(1, 0x10)]).getV 1).toNat := by
  decide +kernel
/-- Both values of the dialect flag. -/
theorem test_witness_ShiftsKeepTheBitShiftedOut :
    (0x05 : Byte) = (if (xy base 0x05 0x08).cfg.shiftUsesY then (xy base 0x05 0x08).getV 2 else (xy base 0x05 0x08).getV 1) ∧
    (0x08 : Byte) = (if (xy other 0x05 0x08).cfg.shiftUsesY then (xy other 0x05 0x08).getV 2 else (xy other 0x05 0x08).getV 1) := by
  decide +kernel

/-- `I = 0xFFD` and `0xFFE`. -/
theorem test_witness_StoreBcdStoresDigits :
    ({ base with i := 0x0FFD } : State).i.toNat + 2 ≤ 0xFFF ∧ 0xFFF < ({ base with i := 0x0FFE } : State).i.toNat + 2 := by
  decide +kernel
/-- `I + X = 0xFFF` and `0x1000`; the same for REG_LOAD. -/
theorem test_witness_RegDumpStoresRegisters :
    ({ base with i := 0x0FF0 } : State).i.toNat + (0xF : Nibble).toNat ≤ 0xFFF ∧
    0xFFF < ({ base with i := 0x0FF1 } : State).i.toNat + (0xF : Nibble).toNat := by decide +kernel
theorem test_witness_RegLoadLoadsRegisters :
    ({ base with i := 0x0FFF } : State).i.toNat + (0x0 : Nibble).toNat ≤ 0xFFF ∧
    0xFFF < ({ base with i := 0x0FFF } : State).i.toNat + (0x1 : Nibble).toNat := by decide +kernel
theorem test_witness_LoadUndoesDump :
    base.i.toNat + (0xF : Nibble).toNat ≤ 0xFFF ∧ ∃ t : State, exec (.regDump 0xF) (regs base [(3, 7)]) = .next t ∧
      ({ sounding with mem := t.mem } : State).mem = t.mem ∧ sounding.i = base.i ∧ sounding.cfg = base.cfg :=
  ⟨by decide +kernel, _, (exec_cases _ _).choose_spec.1, rfl, rfl, rfl⟩
/-- The last fetchable `pc` with both stores at their last legal base. -/
theorem test_witness_StoreIsSeenByNextFetch :
    ({ base with pc := 0x0FFE, i := 0x0FFD } : State).pc.toNat ≤ 0xFFE ∧
    ({ base with pc := 0x0FFE, i := 0x0FFD } : State).i.toNat + 2 ≤ 0xFFF ∧
    ({ base with pc := 0x0FFE, i := 0x0FFD } : State).i.toNat + (0x2 : Nibble).toNat ≤ 0xFFF := by decide +kernel

/-- T-P6: the two stored bytes are the next word; and a store from `I = pc + 1` gives its low byte only, the zero byte at
`pc` staying. -/
theorem test_store_seen_by_fetch :
    execs (.regDump 0x1) (regs { base with i := 0x0200 } [(0, 0x62), (1, 0x77)]) (fun t => t.fetch == some 0x6277) = true ∧
    execs (.regDump 0x1) (regs { base with i := 0x0201 } [(0, 0x62), (1, 0x77)]) (fun t => t.fetch == some 0x0062) = true := by
  decide +kernel

/-- `N = 0` at `I = 0xFFFF`, one row at `I = 0xFFF`. -/
theorem test_witness_DrawXorsClippedSprite :
    ({ base with i := 0xFFFF } : State).SpriteInside 0 ∧ ({ base with i := 0x0FFF } : State).SpriteInside 1 := by decide +kernel
/-- T-D15 and its neighbour. -/
theorem test_witness_DrawOutsideMemoryIsSkipped :
    ¬ ({ base with i := 0x0FF2 } : State).SpriteInside 15 ∧ ({ base with i := 0x0FF1 } : State).SpriteInside 15 := by decide +kernel
/-- The sprite of T-D1; the first draw leaves the column and row registers as they were, also where VF is the column
register and was 0; and every draw has a next state. -/
theorem test_witness_SecondDrawRestoresDisplay :
    ((sprite 0 0 [0x80] []).SpriteInside 1 ∧
      execs (.draw 1 2 1) (sprite 0 0 [0x80] []) (fun t => t.getV 1 == 0 && t.getV 2 == 0) = true ∧
      execs (.draw 15 2 1) (regs (sprite 0 1 [0x80] []) [(15, 0)]) (fun t => t.getV 15 == 0) = true) ∧
    ∀ t : State, ∃ u : State, exec (.draw 1 2 1) t = .next u :=
  ⟨by decide +kernel, fun t => (exec_cases _ t).imp fun _ h => h.1⟩

/-- A key found (`0xC`, before 4), and none down. -/
theorem test_witness_WaitKeyTakesFirstInScanOrder :
    ([0x1, 0x2, 0x3, 0xC, 0x4, 0x5, 0x6, 0xD, 0x7, 0x8, 0x9, 0xE, 0xA, 0x0, 0xB, 0xF] : List Nibble) =
      [0x1, 0x2, 0x3] ++ 0xC :: [0x4, 0x5, 0x6, 0xD, 0x7, 0x8, 0x9, 0xE, 0xA, 0x0, 0xB, 0xF] ∧
    (down base [4, 0xC]).latch 0xC = true ∧ (∀ j ∈ ([0x1, 0x2, 0x3] : List Nibble), (down base [4, 0xC]).latch j = false) ∧
    ∀ k : Nibble, base.latch k = false := by decide +kernel
theorem test_witness_WaitKeyWithoutKeyIsRetried :
    (ready 0xF30A).ReadyToFetch ∧ decode (ready 0xF30A).wordAtPc = .ok (.waitKey 3) ∧ ∀ k : Nibble, (ready 0xF30A).latch k = false :=
  ⟨⟨rfl, rfl, by decide⟩, by decide +kernel, by decide +kernel⟩

theorem test_witness_TickCountsDown :
    ({ sounding with agenda := [.tick] } : State).nextTransition = .tick ∧ sounding.timersRunning = true := by decide +kernel
/-- Four ticks of a core with ST = 3 and DT = 1. -/
theorem test_witness_SoundTimerBeepsForItsValue :
    sounding.timersRunning = true ∧
    (match Host.Core.run Sys2Proof.core 4 { sounding with agenda := List.replicate 4 .tick } with
     | .next (t : State) => t.history == [.beep false, .beep true, .beep true, .beep true] && t.dt == 0 && t.st == 0
     | .fault _ => false
     | .refused _ => false) = true := by decide +kernel
/-- Both instructions that write a timer. -/
theorem test_witness_OnlyGetDelayReadsATimer :
    (∀ x : Nibble, Instr.setDelay 0x1 ≠ .getDelay x) ∧ (∃ t, exec (.setDelay 0x1) sounding = .next t) ∧
    (∀ x : Nibble, Instr.setSound 0x1 ≠ .getDelay x) ∧ ∃ t, exec (.setSound 0x1) sounding = .next t :=
  ⟨by decide, ⟨_, rfl⟩, by decide, ⟨_, rfl⟩⟩

theorem test_witness_KeyUpdateSetsOneLatch : (due (.keyUpdate 0xF true)).nextTransition = .keyUpdate 0xF true := by rfl
theorem test_witness_ConsumeFrameTakesPendingFrame :
    (due .consumeFrame).nextTransition = .consumeFrame ∧ ({ base with redraw := true } : State).redraw = true ∧
    base.redraw = false := by decide +kernel
theorem test_witness_QueriesOnlyAnswer :
    (due .queryRedraw).nextTransition = .queryRedraw ∧ (due .queryPC).nextTransition = .queryPC ∧
    (due .queryRate).nextTransition = .queryRate ∧ (due .queryErr).nextTransition = .queryErr := ⟨rfl, rfl, rfl, rfl⟩
theorem test_witness_LoadRomCopiesWhatFits :
    (due (.loadRom [0x12])).nextTransition = .loadRom [0x12] ∧ base.started = false := by decide +kernel
theorem test_witness_ResetPutsEveryPieceAtItsValue :
    ({ halted with agenda := [.reset true false 0] } : State).nextTransition = .reset true false 0 := by rfl
theorem test_witness_InitializeInEitherBootOrder :
    (due .initializeTimers).nextTransition = .initializeTimers ∧ base.timersRunning = false ∧ base.started = false := by
  decide +kernel

theorem test_witness_InstructionsNeverWriteHostState :
    ∃ t, exec .clear { base with redraw := true } = .next t ∧ ({ base with redraw := true } : State).redraw = true := ⟨_, rfl, rfl⟩
/-- A register outside what FX1E may write, and addresses on both sides of three stored bytes. -/
theorem test_witness_RegistersAndMemoryFrame :
    (Instr.addIndex 0x3).mayWriteV 0x3 = false ∧ (∃ t, exec (.addIndex 0x3) base = .next t) ∧
    0x2FF < ({ base with i := 0x0300 } : State).i.toNat ∧
    ({ base with i := 0x0300 } : State).i.toNat + (Instr.storeBcd 0x3).storedBytes ≤ 0x303 :=
  ⟨by decide, ⟨_, rfl⟩, by decide +kernel, by decide +kernel⟩
/-- A write of each kind. -/
theorem test_witness_SpecialStateFrame :
    execs (.setIndex 0x123) base (fun t => decide (t.i ≠ base.i)) = true ∧
    execs (.call 0x300) base (fun t => decide (t.stack ≠ base.stack)) = true ∧
    execs (.setDelay 0x1) sounding (fun t => decide (t.dt ≠ sounding.dt)) = true ∧
    execs (.setSound 0x1) sounding (fun t => decide (t.st ≠ sounding.st)) = true ∧
    execs .clear base (fun t => decide (t.redraw ≠ base.redraw)) = true ∧
    execs (.random 0x1 0x0F) base (fun t => decide (t.draws ≠ base.draws)) = true := by decide +kernel
/-- A flag written, and the DRAW that a warning skips. -/
theorem test_witness_FlagIsAlwaysABit :
    (Instr.add 0x1 0x2).writesFlag = true ∧ (∃ t, exec (.add 0x1 0x2) base = .next t) ∧
    execs (.draw 1 2 2) { sprite 0 0 [] [] with i := 0x0FFF } (fun t => t.getV 15 == 0x55) = true :=
  ⟨rfl, ⟨_, rfl⟩, by decide +kernel⟩
/-- Both errors. -/
theorem test_witness_ErrorsArePrecise :
    base.err = .none ∧ base.stack.length ≤ base.cfg.stackDepth ∧
    execs .ret base (fun t => decide (t.err ≠ .none)) = true ∧
    execs (.call 0x300) { base with stack := List.replicate 16 0x0400 } (fun t => decide (t.err ≠ .none)) = true := by
  decide +kernel
/-- Frozen, and the reset. -/
theorem test_witness_HaltedCoreIsFrozen :
    halted.Halted ∧ halted.started = true ∧ (∃ t, step halted = .next t) ∧
    ∃ t, step { halted with agenda := [.reset true true 60] } = .next t :=
  ⟨by decide +kernel, rfl, ⟨_, rfl⟩, ⟨_, rfl⟩⟩
/-- All four warnings. -/
theorem test_witness_WarningsSkipTheWholeInstruction :
    execs (.storeBcd 0x4) { base with i := 0x0FFE } (fun t => t.history == .warning (.bcdBounds 0x0FFE) :: base.history) = true ∧
    execs (.regDump 0xF) { base with i := 0x0FF1 } (fun t => t.history == .warning (.dumpBounds 0x0FF1 0xF) :: base.history) = true ∧
    execs (.regLoad 0x1) { base with i := 0x0FFF } (fun t => t.history == .warning (.loadBounds 0x0FFF 0x1) :: base.history) = true ∧
    execs (.draw 1 2 2) { base with i := 0x0FFF } (fun t => t.history == .warning (.drawBounds 0x0FFF 2) :: base.history) = true := by
  decide +kernel
theorem test_witness_HiddenStateIsUnobservable :
    base.SameToProgram { base with rateHz := 60, beep := true, agenda := [.tick] } ∧ ∃ t, exec .clear base = .next t :=
  ⟨rfl, _, rfl⟩
/-- A transition that holds everything, and a reset. -/
theorem test_witness_ConfigurationIsHeld :
    goes .queryPC base (fun t => t.cfg == base.cfg && t.rateHz == base.rateHz) = true ∧
    goes (.reset true false (-5)) base (fun t => t.cfg.shiftUsesY && t.rateHz == 700) = true := by decide +kernel
/-- The highest entry the invariant admits. -/
theorem test_witness_InvariantAtReset : ({ Config.default with pcReset := 0x10FE } : Config).pcReset.toNat ≤ 0x10FE := by decide
/-- A core with a stack, a written byte and a high `pc`. -/
def full : State := { base with stack := [0x0002, 0x1000], mem := [(0x0FFF, 0x01)], pc := 0x10FE }

/-- It meets the invariant, and has a next state. -/
theorem test_witness_EveryTransitionKeepsInvariant : full.Inv ∧ ∃ t, step full = .next t :=
  ⟨⟨by decide +kernel, by decide +kernel,
    (fun w h => by
      simp only [full, List.mem_cons, List.not_mem_nil, or_false] at h
      rcases h with rfl | rfl <;> decide),
    by decide +kernel, by decide +kernel, by decide +kernel,
    (fun h => absurd h (by decide)), (fun h => absurd h (by decide)), (fun h => absurd h (by decide)),
    (fun h => absurd rfl h), fun _ => rfl⟩, _, by rw [step]; rfl⟩

end Sys2Proof.Tests
end

section
/-! The configuration is held (O58). Every transition but a reset leaves the configuration and RATE_HZ alone; the
inversions of the operations that may refuse, and of one transition of the machine, are stated once for it. -/

namespace Sys2Proof.Machine

/-! ## What a next state of each host or timer operation is -/

/-- A tick that is not refused (spec/60_exceptions.md R223, R224). -/
theorem State.tick_next {s t : State} (h : s.tick = .next t) : s.timersRunning = true ∧ t = s.ticked := by
  unfold State.tick at h
  split at h
  · next hrun => injection h with h; exact ⟨hrun, h.symm⟩
  · cases h

/-- A ROM load that is not refused (spec/20_memory.md R64). -/
theorem State.loadRom_next {s t : State} {bytes : List Byte} (h : s.loadRom bytes = .next t) :
    s.started = false ∧ t = { s with mem := s.mem.writeBytes s.cfg.font progBase (bytes.take romMax) } := by
  unfold State.loadRom at h
  split at h
  · cases h
  · next hstart => injection h with h; exact ⟨Bool.eq_false_iff.mpr hstart, h.symm⟩

/-- An `Initialize` that is not refused (spec/70_reset_and_hazards.md R251). -/
theorem State.initializeTimers_next {s t : State} (h : s.initializeTimers = .next t) :
    s.timersRunning = false ∧ t = { s with timersRunning := true } := by
  unfold State.initializeTimers at h
  split at h
  · cases h
  · next hrun => injection h with h; exact ⟨Bool.eq_false_iff.mpr hrun, h.symm⟩

/-- What consuming a frame can change (spec/60_exceptions.md R228). -/
theorem State.consumeFrame_frame (s : State) :
    s.consumeFrame = { s with redraw := s.consumeFrame.redraw, history := s.consumeFrame.history } := by
  unfold State.consumeFrame
  split <;> rfl

/-! ## The transitions that hold the configuration -/

/-- `t` has the configuration and the rate of `s` (spec/10_state.md R30, R31). -/
structure State.SameConfig (s t : State) : Prop where
  cfg : t.cfg = s.cfg
  rateHz : t.rateHz = s.rateHz

/-- No instruction writes the configuration or the rate: in every case the field lemmas of the update say so. -/
theorem ExecTo.sameConfig {i : Instr} {s t : State} (e : ExecTo s i t) : s.SameConfig t := by
  cases e <;> constructor <;> simp

/-- Nor does a `Step`, whatever it fetches. -/
theorem State.executionStep_sameConfig {s t : State} (h : s.executionStep = .next t) : s.SameConfig t := by
  obtain ⟨-, rfl⟩ | ⟨-, -, rfl⟩ | ⟨-, -, -, rfl⟩ | ⟨-, -, i, -, hexec⟩ := s.executionStep_cases h
  · exact ⟨rfl, rfl⟩
  · exact ⟨rfl, rfl⟩
  · exact ⟨rfl, rfl⟩
  · obtain ⟨hcfg, hrate⟩ := (exec_to hexec).sameConfig
    exact ⟨hcfg, hrate⟩

/-- A transition of any agent holds the configuration and the rate, or is a reset. -/
theorem State.perform_sameConfig_or_reset {s t : State} {tr : Transition} (h : s.perform tr = .next t) :
    s.SameConfig t ∨ ∃ a b rate, tr = .reset a b rate ∧ t = s.resetWith a b rate := by
  cases tr with
  | step => exact .inl (State.executionStep_sameConfig h)
  | tick => obtain ⟨-, rfl⟩ := State.tick_next h; exact .inl ⟨rfl, rfl⟩
  | loadRom bytes => obtain ⟨-, rfl⟩ := State.loadRom_next h; exact .inl ⟨rfl, rfl⟩
  | initializeTimers => obtain ⟨-, rfl⟩ := State.initializeTimers_next h; exact .inl ⟨rfl, rfl⟩
  | consumeFrame =>
    injection h with h
    subst h
    rw [s.consumeFrame_frame]
    exact .inl ⟨rfl, rfl⟩
  | reset a b rate => injection h with h; exact .inr ⟨a, b, rate, rfl, h.symm⟩
  | keyUpdate | queryRedraw | queryPC | queryRate | queryErr => injection h with h; subst h; exact .inl ⟨rfl, rfl⟩

/-- Settles O58: a transition that is no reset holds everything, and a reset sets exactly its three arguments. -/
theorem configurationIsHeld : Obligations.ConfigurationIsHeld := by
  intro s t h
  obtain ⟨hcfg, hrate⟩ | ⟨a, b, rate, hturn, rfl⟩ := State.perform_sameConfig_or_reset h
  · rw [State.popAgenda_cfg] at hcfg
    rw [State.popAgenda_rateHz] at hrate
    exact ⟨by rw [hcfg], .inl ⟨hcfg, hrate⟩⟩
  · exact ⟨rfl, .inr ⟨a, b, rate, hturn, rfl, rfl, rfl⟩⟩

end Sys2Proof.Machine
end

section
/-! The state after reset (O47, O48, O59): what a core just constructed holds, said once and read off for `State.reset`
and for the `Reset` transition. -/

namespace Sys2Proof.Machine

/-! ## The state of a core just constructed -/

/-- The held rate is positive whatever was supplied (spec/00_scope.md R6). -/
theorem heldRate_pos (rate : Int) : 0 < heldRate rate := by
  unfold heldRate
  split <;> omega

section
variable (c : Config) (rate : Int)

@[simp] theorem State.construct_getV (k : Nibble) : (State.construct c rate).getV k = 0x00 :=
  Vector.getElem_replicate ..

@[simp] theorem State.construct_latch (k : Nibble) : (State.construct c rate).latch k = false :=
  Vector.getElem_replicate ..

/-- The font area reads as the font (spec/10_state.md R33). -/
theorem State.construct_readMem_font {a : Nat} (h : a < 80) : (State.construct c rate).readMem a = c.font[a] :=
  dif_pos h

/-- Everything above the font reads as zero. -/
theorem State.construct_readMem_zero {a : Nat} (h : 80 ≤ a) : (State.construct c rate).readMem a = 0x00 :=
  dif_neg (Nat.not_lt.mpr h)

/-- A constructed core meets the invariant: no error is latched, the stack and the listing are empty. -/
theorem State.construct_inv (h : c.pcReset.toNat ≤ 0x10FE) : (State.construct c rate).Inv where
  memory := Memory.wf_nil c.font
  depth := Nat.zero_le _
  entries _ hw := nomatch hw
  counter := h
  entry := h
  rate := heldRate_pos rate
  emptyStack _ := rfl
  stackOverflow herr := nomatch herr
  fetchBounds herr := nomatch herr
  halted herr := absurd rfl herr
  silent _ := rfl

end

/-- Settles O59: `State.reset` is one of the constructed cores. -/
theorem invariantAtReset : Obligations.InvariantAtReset :=
  ⟨State.construct_inv Config.default 0 (by decide), State.construct_inv⟩

/-- Settles O48: `State.reset` is the core constructed with the default configuration. -/
theorem stateAfterReset : Obligations.StateAfterReset :=
  ⟨State.construct_getV _ _, rfl, rfl, rfl, rfl, rfl, fun row col _ _ => Display.get_blank row col, rfl,
    State.construct_latch _ _, rfl, fun _ => State.construct_readMem_font _ _, fun _ => State.construct_readMem_zero _ _,
    rfl, rfl⟩

/-- The next transition is performed once it is off the agenda. -/
theorem step_eq_perform {s : State} {tr : Transition} (h : s.nextTransition = tr) :
    step s = s.popAgenda.perform tr := by
  rw [step, h]

/-- Settles O47: but for the model's own fields, a `Reset` makes a constructed core (spec/70_reset_and_hazards.md R250). -/
theorem resetPutsEveryPieceAtItsValue : Obligations.ResetPutsEveryPieceAtItsValue := by
  intro s a b rate hturn
  let c : Config := { s.cfg with shiftUsesY := a, jumpUsesV0 := b }
  exact ⟨s.popAgenda.resetWith a b rate, step_eq_perform hturn, State.construct_getV c rate, rfl, rfl, rfl, rfl, rfl,
    fun row col _ _ => Display.get_blank row col, rfl, State.construct_latch c rate, rfl,
    fun _ => State.construct_readMem_font c rate, fun _ => State.construct_readMem_zero c rate,
    rfl, rfl, rfl, rfl, rfl, rfl, rfl, rfl⟩

end Sys2Proof.Machine
end

section
/-! The invariant (O60): one rule per kind of update, then the instructions, a `Step`, and every transition. -/

namespace Sys2Proof.Machine

/-! ## What an update must show to keep the invariant -/

section
variable {s t : State}

/-- The fields the invariant speaks of are the same in `t`. An update that writes none of them shows it by `{}`. -/
structure State.SameInv (s t : State) : Prop where
  mem : t.mem = s.mem := by rfl
  cfg : t.cfg = s.cfg := by rfl
  stack : t.stack = s.stack := by rfl
  pc : t.pc = s.pc := by rfl
  rateHz : t.rateHz = s.rateHz := by rfl
  err : t.err = s.err := by rfl
  started : t.started = s.started := by rfl
  timersRunning : t.timersRunning = s.timersRunning := by rfl
  beep : t.beep = s.beep := by rfl

theorem State.Inv.congr (hs : s.Inv) (h : s.SameInv t) : t.Inv := by
  obtain ⟨hmem, hcfg, hstack, hpc, hrate, herr, hstart, hrun, hbeep⟩ := h
  constructor <;> simp only [*]
  exacts [hs.memory, hs.depth, hs.entries, hs.counter, hs.entry, hs.rate, hs.emptyStack, hs.stackOverflow,
    hs.fetchBounds, hs.halted, hs.silent]

theorem State.Inv.withMem (hs : s.Inv) {m : Memory} (h : m.wf s.cfg.font) : State.Inv { s with mem := m } :=
  { hs with memory := h }

/-- Without a latched error, `pc` is bound by its limit alone. -/
theorem State.Inv.withPc (hs : s.Inv) (hrun : s.err = .none) {w : Word} (h : w.toNat ≤ 0x10FE) : (s.setPc w).Inv :=
  { hs with
    counter := h
    fetchBounds := fun (herr : s.err = _) => by rw [hrun] at herr; cases herr }

/-- Without a latched error, the stack is bound by its depth and its entries alone. -/
theorem State.Inv.withStack (hs : s.Inv) (hrun : s.err = .none) {ws : List Word} (hlen : ws.length ≤ s.cfg.stackDepth)
    (h : ∀ w ∈ ws, 2 ≤ w.toNat ∧ w.toNat ≤ 0x1000) : State.Inv { s with stack := ws } :=
  { hs with
    depth := hlen
    entries := h
    emptyStack := fun (herr : s.err = _) => by rw [hrun] at herr; cases herr
    stackOverflow := fun (herr : s.err = _) => by rw [hrun] at herr; cases herr }

/-- An error latched by a marked step, with its cause (spec/60_exceptions.md R210). -/
theorem State.Inv.raise (hs : s.Inv) (hstart : s.started = true) {e : ErrorCode}
    (hempty : e = .emptyStack → s.stack = []) (hfull : e = .stackOverflow → s.stack.length = s.cfg.stackDepth)
    (hfetch : e = .fetchBounds → 0xFFE < s.pc.toNat) : (s.raise e).Inv :=
  { hs with
    emptyStack := hempty
    stackOverflow := hfull
    fetchBounds := hfetch
    halted := fun _ => hstart }

end

/-! ## The instructions -/

/-- A state `exec` starts from within a `Step`: the invariant holds, no error is latched, the step is marked, and `pc` is
the address after a fetched word (spec/40_flow.md R100). -/
structure State.Executing (s : State) : Prop where
  inv : s.Inv
  running : s.err = .none
  started : s.started = true
  afterFetch : 2 ≤ s.pc.toNat ∧ s.pc.toNat ≤ 0x1000

theorem trunc16_add_two {w : Word} (h : w.toNat ≤ 0x1000) : (trunc16 (w.toNat + 2)).toNat = w.toNat + 2 := by
  rw [trunc16, BitVec.toNat_ofNat]; omega

/-- The target of JUMP and CALL is a 12-bit address. -/
theorem zext16_toNat (nnn : Addr) : (zext16 nnn).toNat = nnn.toNat := by
  have := nnn.isLt
  simp [zext16]; omega

theorem zext16_le (nnn : Addr) : (zext16 nnn).toNat ≤ 0xFFF := by
  have := nnn.isLt
  rw [zext16_toNat]; omega

/-- The greatest target of JUMP_OFFSET is `0xFFF + 0xFF` (spec/10_state.md R23). -/
theorem jumpOffset_target_le (nnn : Addr) (b : Byte) : (trunc16 ((zext16 nnn).toNat + b.toNat)).toNat ≤ 0x10FE := by
  have := zext16_le nnn
  have := b.isLt
  rw [trunc16, BitVec.toNat_ofNat]; omega

section
variable {s t : State}

/-- A skip from at most `0x1000` ends at most at `0x1002`. -/
theorem State.Executing.skipIf_inv (hs : s.Executing) (c : Bool) : (s.skipIf c).Inv := by
  obtain ⟨hinv, hrun, -, -, hhi⟩ := hs
  cases c with
  | false => exact hinv
  | true => exact hinv.withPc hrun (by rw [trunc16_add_two hhi]; omega)

/-- A data write inside the memory (spec/44_index_mem.md R166). -/
theorem State.Inv.store (hs : s.Inv) (bs : List Byte) (h : s.i.toNat + bs.length ≤ memSize) :
    State.Inv { s with mem := s.mem.writeBytes s.cfg.font s.i.toNat bs } :=
  hs.withMem (Memory.wf_writeBytes s.cfg.font bs hs.memory h)

/-- Every instruction keeps the invariant. Only the flow, the skips, the stores and a waiting WAIT_KEY touch what it
speaks of. -/
theorem State.Executing.exec_inv (hs : s.Executing) {i : Instr} (e : ExecTo s i t) : t.Inv := by
  obtain ⟨hinv, hrun, hstart, hlo, hhi⟩ := id hs
  cases e with
  | retPop older w h =>
    have hdepth : older.length ≤ s.cfg.stackDepth := by
      have hlen := hinv.depth
      rw [h, List.length_append] at hlen
      omega
    have hentries : ∀ v ∈ s.stack, _ := hinv.entries
    rw [h, List.forall_mem_append, List.forall_mem_singleton] at hentries
    obtain ⟨holder, -, hw⟩ := hentries
    exact (hinv.withStack hrun hdepth holder).withPc hrun (by omega)
  | retEmpty h => exact hinv.raise hstart (fun _ => h) nofun nofun
  | callPush nnn h =>
    have hentries : ∀ v ∈ s.stack ++ [s.pc], 2 ≤ v.toNat ∧ v.toNat ≤ 0x1000 := by
      rw [List.forall_mem_append, List.forall_mem_singleton]
      exact ⟨hinv.entries, hlo, hhi⟩
    have := zext16_le nnn
    exact (hinv.withStack hrun (by simpa using h) hentries).withPc hrun (by omega)
  | callFull nnn h => exact hinv.raise hstart nofun (fun _ => Nat.le_antisymm hinv.depth h) nofun
  | jump nnn => exact hinv.withPc hrun (by have := zext16_le nnn; omega)
  | jumpOffset nnn x => exact hinv.withPc hrun (jumpOffset_target_le nnn _)
  | skipEqImm | skipNeqImm | skipEqReg | skipNeqReg | keyPressed | keyNotPressed => exact hs.skipIf_inv _
  | storeBcd x h => exact hinv.store _ (show s.i.toNat + 3 ≤ 0x1000 by omega)
  | regDump x h => exact hinv.store _ (by rw [s.length_regsUpTo, memSize]; omega)
  | waitKeyNone x h => exact hinv.withPc hrun (by bv_omega)
  | _ => exact hinv.congr {}

/-- Marking a first step keeps the invariant: the mark is what a latched error asks for. -/
theorem State.Inv.markStarted (hs : s.Inv) : s.markStarted.Inv :=
  { hs with halted := fun _ => rfl }

/-- FETCH and ADVANCE of a running core lead to a state to execute from. -/
theorem State.Inv.executing (hs : s.Inv) (hrun : s.err = .none) (hpc : s.pc.toNat ≤ 0xFFE) :
    s.markStarted.advance.Executing := by
  have hadv : s.markStarted.advance.pc.toNat = s.pc.toNat + 2 := trunc16_add_two (w := s.pc) (by omega)
  exact ⟨hs.markStarted.withPc hrun (le_of_eq_of_le hadv (by omega)), hrun, rfl, by omega, by omega⟩

/-- A `Step` keeps the invariant, whatever it fetches. -/
theorem State.Inv.executionStep (hs : s.Inv) (h : s.executionStep = .next t) : t.Inv := by
  obtain ⟨-, rfl⟩ | ⟨-, hpc, rfl⟩ | ⟨hrun, hpc, -, rfl⟩ | ⟨hrun, hpc, i, -, hexec⟩ := s.executionStep_cases h
  · exact hs
  · exact hs.markStarted.raise rfl nofun nofun fun _ => hpc
  · exact (hs.executing hrun hpc).inv
  · exact (hs.executing hrun hpc).exec_inv (exec_to hexec)

/-- Every transition of every agent (spec/60_exceptions.md R234) keeps the invariant. -/
theorem State.Inv.perform (hs : s.Inv) {tr : Transition} (h : s.perform tr = .next t) : t.Inv := by
  cases tr with
  | step => exact hs.executionStep h
  | tick =>
    obtain ⟨hrun, rfl⟩ := State.tick_next h
    exact { hs with silent := fun (hstill : s.timersRunning = false) => by rw [hrun] at hstill; cases hstill }
  | loadRom bytes =>
    obtain ⟨-, rfl⟩ := State.loadRom_next h
    refine hs.withMem (Memory.wf_writeBytes s.cfg.font _ hs.memory ?_)
    have := List.length_take_le romMax bytes
    simp only [progBase, romMax, memSize] at *
    omega
  | initializeTimers =>
    obtain ⟨-, rfl⟩ := State.initializeTimers_next h
    exact { hs with silent := nofun }
  | consumeFrame =>
    injection h with h
    subst h
    rw [s.consumeFrame_frame]
    exact hs.congr {}
  | reset a b rate =>
    injection h with h
    subst h
    exact State.Inv.congr (State.construct_inv { s.cfg with shiftUsesY := a, jumpUsesV0 := b } rate hs.entry) {}
  | keyUpdate | queryRedraw | queryPC | queryRate | queryErr =>
    injection h with h
    subst h
    exact hs.congr {}

end

/-- Settles O60: taking a transition off the agenda touches nothing the invariant speaks of, and performing it keeps it. -/
theorem everyTransitionKeepsInvariant : Obligations.EveryTransitionKeepsInvariant := by
  intro s t hs h
  have hpop : s.popAgenda.Inv := hs.congr {}
  exact hpop.perform h

end Sys2Proof.Machine
end

section
/-! What an instruction leaves unchanged (O51, O52) and the flags (O53), each a case split on the next states of `exec`. -/

namespace Sys2Proof.Machine

/-- An update that leaves the memory and the configuration alone leaves every byte alone. -/
theorem State.readMem_congr {s t : State} (hmem : t.mem = s.mem) (hcfg : t.cfg = s.cfg) (a : Nat) :
    t.readMem a = s.readMem a := by
  rw [State.readMem, State.readMem, hmem, hcfg]

section
variable {i : Instr} {s t : State}

/-! ## Registers and memory -/

/-- A register outside the spec's column "written by" keeps its value (spec/10_state.md R20). -/
theorem ExecTo.getV_frame (e : ExecTo s i t) {k : Nibble} (hk : i.mayWriteV k = false) : t.getV k = s.getV k := by
  cases e with
  | loadImm | addImm | copy | or | and | xor | random | getDelay | waitKey =>
    exact (State.getV_setV _ _ _ _).trans (if_neg (by simpa [Instr.mayWriteV] using hk))
  | add | sub | subn | shr | shl =>
    simp only [Instr.mayWriteV, Bool.or_eq_false_iff, beq_eq_false_iff_ne] at hk
    rw [State.getV_setVThenFlag, if_neg hk.2, if_neg hk.1]
  | addIndex | draw => exact (State.getV_setV _ 0xF _ _).trans (if_neg (by simpa [Instr.mayWriteV] using hk))
  | regLoad x h =>
    have hlt : x < k := by simpa [Instr.mayWriteV] using hk
    refine (getElem_regsWrite _ _ _ _ k.isLt).trans (dif_neg ?_)
    rw [Memory.length_readBytes]
    have := BitVec.lt_def.mp hlt
    omega
  | _ => exact State.getV_congr s (by simp) k

/-- A byte outside the stored range keeps its value (spec/44_index_mem.md R166). -/
theorem ExecTo.readMem_frame (e : ExecTo s i t) {a : Nat} (ha : a < s.i.toNat ∨ s.i.toNat + i.storedBytes ≤ a) :
    t.readMem a = s.readMem a := by
  cases e with
  | storeBcd x h =>
    have hlen : (bcdDigits (s.getV x)).length = (Instr.storeBcd x).storedBytes := rfl
    rw [State.readMem_store, dif_neg (by omega)]
  | regDump x h =>
    have hlen : (s.regsUpTo x).length = (Instr.regDump x).storedBytes := s.length_regsUpTo x
    rw [State.readMem_store, dif_neg (by omega)]
  | _ => exact State.readMem_congr (by simp) (by simp) a

/-! ## Special state -/

theorem ExecTo.i_frame (e : ExecTo s i t) (h : t.i ≠ s.i) :
    (∃ nnn, i = .setIndex nnn) ∨ (∃ x, i = .addIndex x) ∨ ∃ x, i = .spriteAddr x := by
  cases e with
  | setIndex nnn => exact .inl ⟨nnn, rfl⟩
  | addIndex x => exact .inr (.inl ⟨x, rfl⟩)
  | spriteAddr x => exact .inr (.inr ⟨x, rfl⟩)
  | _ => exact absurd (by simp) h

theorem ExecTo.stack_frame (e : ExecTo s i t) (h : t.stack ≠ s.stack) : i = .ret ∨ ∃ nnn, i = .call nnn := by
  cases e with
  | retPop | retEmpty => exact .inl rfl
  | callPush nnn | callFull nnn => exact .inr ⟨nnn, rfl⟩
  | _ => exact absurd (by simp) h

theorem ExecTo.dt_frame (e : ExecTo s i t) (h : t.dt ≠ s.dt) : ∃ x, i = .setDelay x := by
  cases e with
  | setDelay x => exact ⟨x, rfl⟩
  | _ => exact absurd (by simp) h

theorem ExecTo.st_frame (e : ExecTo s i t) (h : t.st ≠ s.st) : ∃ x, i = .setSound x := by
  cases e with
  | setSound x => exact ⟨x, rfl⟩
  | _ => exact absurd (by simp) h

theorem ExecTo.dt_eq (e : ExecTo s i t) (h : ∀ x, i ≠ .setDelay x) : t.dt = s.dt := by
  by_contra hne
  obtain ⟨x, hx⟩ := e.dt_frame hne
  exact h x hx

theorem ExecTo.st_eq (e : ExecTo s i t) (h : ∀ x, i ≠ .setSound x) : t.st = s.st := by
  by_contra hne
  obtain ⟨x, hx⟩ := e.st_frame hne
  exact h x hx

theorem ExecTo.disp_frame (e : ExecTo s i t) (h : t.disp ≠ s.disp ∨ t.redraw ≠ s.redraw) :
    i = .clear ∨ ∃ x y n, i = .draw x y n := by
  cases e with
  | clear => exact .inl rfl
  | draw x y n | drawOutside x y n => exact .inr ⟨x, y, n, rfl⟩
  | _ => exact absurd h (by simp)

theorem ExecTo.draws_frame (e : ExecTo s i t) (h : t.draws ≠ s.draws) : ∃ x nn, i = .random x nn := by
  cases e with
  | random x nn => exact ⟨x, nn, rfl⟩
  | _ => exact absurd (by simp) h

/-! ## Flags -/

/-- A register that holds a flag holds a bit. -/
theorem State.getV_eq_ofBool {k : Nibble} {c : Bool} (h : t.getV k = Flags.ofBool c) :
    t.getV k = 0x00 ∨ t.getV k = 0x01 := by
  cases c with
  | false => exact .inl h
  | true => exact .inr h

@[simp] theorem State.getV_setVF (s : State) (b : Byte) : (s.setVF b).getV 0xF = b :=
  (s.getV_setV 0xF 0xF b).trans (if_pos rfl)

end

/-- Settles O51, by the frame of each instruction's next states. -/
theorem registersAndMemoryFrame : Obligations.RegistersAndMemoryFrame := fun _ _ _ h =>
  ⟨fun _ => (exec_to h).getV_frame, fun _ => (exec_to h).readMem_frame⟩

/-- Settles O52, one frame lemma per piece of state. -/
theorem specialStateFrame : Obligations.SpecialStateFrame := by
  intro i s t h
  have e := exec_to h
  exact ⟨e.i_frame, e.stack_frame, e.dt_frame, e.st_frame, e.disp_frame, e.draws_frame⟩

/-- Settles O53: the flag is the last write to VF, and every flag is one of `Flags.ofBool`. -/
theorem flagIsAlwaysABit : Obligations.FlagIsAlwaysABit := by
  intro i s t hflag h
  rw [← or_assoc]
  cases exec_to h with
  | add | sub | subn | shr | shl | addIndex => exact .inl (State.getV_eq_ofBool (State.getV_setVF _ _))
  | draw x y n bytes =>
    exact .inl (State.getV_eq_ofBool ((State.getV_congr (s.setVF _) rfl 0xF).trans (s.getV_setVF _)))
  | drawOutside x y n => exact .inr ⟨x, y, n, rfl, rfl⟩
  | _ => cases hflag

end Sys2Proof.Machine
end

section
/-! Non-interference (O42, O57). The timers, REDRAW, RATE_HZ, the beep level, the marks of the host's operations, the
agenda and the history are read by no instruction, GET_DELAY's `DT` excepted: what an instruction does to them is a write
that does not depend on what they hold, and everything else it does is the same whatever they hold. -/

namespace Sys2Proof.Machine

/-- The fields of the state that no instruction but GET_DELAY reads (spec/10_state.md R25, R26, R35). -/
structure Unread where
  dt : Byte
  st : Byte
  redraw : Bool
  rateHz : Int
  beep : Bool
  timersRunning : Bool
  started : Bool
  agenda : List Transition
  history : List Output

def State.unread (s : State) : Unread where
  dt := s.dt
  st := s.st
  redraw := s.redraw
  rateHz := s.rateHz
  beep := s.beep
  timersRunning := s.timersRunning
  started := s.started
  agenda := s.agenda
  history := s.history

/-- The state with other values in those fields. -/
def State.withUnread (s : State) (p : Unread) : State :=
  { s with
    dt := p.dt
    st := p.st
    redraw := p.redraw
    rateHz := p.rateHz
    beep := p.beep
    timersRunning := p.timersRunning
    started := p.started
    agenda := p.agenda
    history := p.history }

/-- What an instruction does to the fields it does not read: it may set a timer, set REDRAW, put out events. -/
structure UnreadWrite where
  dt : Option Byte := none
  st : Option Byte := none
  redraw : Bool := false
  outputs : List Output := []

def UnreadWrite.apply (f : UnreadWrite) (p : Unread) : Unread :=
  { p with
    dt := f.dt.getD p.dt
    st := f.st.getD p.st
    redraw := f.redraw || p.redraw
    history := f.outputs ++ p.history }

section
variable {i : Instr} {s t u : State}

/-- `exec` is a function: an instruction has one next state. -/
theorem ExecTo.unique (e : ExecTo s i t) (e' : ExecTo s i u) : t = u := by
  have h := e.exec_eq.symm.trans e'.exec_eq
  injection h

/-- A skip reads none of the fields. -/
theorem State.withUnread_skipIf (s : State) (c : Bool) (p : Unread) :
    (s.skipIf c).withUnread p = (s.withUnread p).skipIf c := by
  cases c <;> rfl

/-- An instruction run with other values in the fields it does not read: each state takes one and the same write there, and
is the same elsewhere. -/
theorem ExecTo.exists_unreadWrite (e : ExecTo s i t) :
    ∃ f : UnreadWrite, ∀ p : Unread, (∀ x, i = .getDelay x → p.dt = s.dt) →
      ExecTo (s.withUnread p) i (t.withUnread (f.apply p)) := by
  cases e with
  | setDelay x => exact ⟨{ dt := some (s.getV x) }, fun _ _ => .setDelay x⟩
  | setSound x => exact ⟨{ st := some (s.getV x) }, fun _ _ => .setSound x⟩
  | clear => exact ⟨{ redraw := true }, fun _ _ => .clear⟩
  | draw x y n bytes h hb => exact ⟨{ redraw := true }, fun _ _ => .draw x y n bytes h hb⟩
  | retEmpty h => exact ⟨{ outputs := [.error .emptyStack s.pc] }, fun _ _ => .retEmpty h⟩
  | callFull nnn h => exact ⟨{ outputs := [.error .stackOverflow s.pc] }, fun _ _ => .callFull nnn h⟩
  | storeBcdOutside x h => exact ⟨{ outputs := [.warning (.bcdBounds s.i)] }, fun _ _ => .storeBcdOutside x h⟩
  | regDumpOutside x h => exact ⟨{ outputs := [.warning (.dumpBounds s.i x)] }, fun _ _ => .regDumpOutside x h⟩
  | regLoadOutside x h => exact ⟨{ outputs := [.warning (.loadBounds s.i x)] }, fun _ _ => .regLoadOutside x h⟩
  | drawOutside x y n h h' => exact ⟨{ outputs := [.warning (.drawBounds s.i n)] }, fun _ _ => .drawOutside x y n h h'⟩
  | getDelay x => exact ⟨{}, fun p hp => hp x rfl ▸ .getDelay x⟩
  | retPop older w h => exact ⟨{}, fun _ _ => .retPop older w h⟩
  | callPush nnn h => exact ⟨{}, fun _ _ => .callPush nnn h⟩
  | storeBcd x h => exact ⟨{}, fun _ _ => .storeBcd x h⟩
  | regDump x h => exact ⟨{}, fun _ _ => .regDump x h⟩
  | regLoad x h => exact ⟨{}, fun _ _ => .regLoad x h⟩
  | waitKey x k h => exact ⟨{}, fun _ _ => .waitKey x k h⟩
  | waitKeyNone x h => exact ⟨{}, fun _ _ => .waitKeyNone x h⟩
  | skipEqImm | skipNeqImm | skipEqReg | skipNeqReg | keyPressed | keyNotPressed =>
    refine ⟨{}, fun p _ => ?_⟩
    rw [State.withUnread_skipIf]
    constructor
  | _ => exact ⟨{}, fun _ _ => by constructor⟩

/-- The write is also the one the run itself made. -/
theorem ExecTo.exists_unreadWrite_eq (e : ExecTo s i t) :
    ∃ f : UnreadWrite, t = t.withUnread (f.apply s.unread) ∧
      ∀ p : Unread, (∀ x, i = .getDelay x → p.dt = s.dt) → ExecTo (s.withUnread p) i (t.withUnread (f.apply p)) := by
  obtain ⟨f, hf⟩ := e.exists_unreadWrite
  exact ⟨f, e.unique (hf s.unread fun _ _ => rfl), hf⟩

/-- Another run that differs in the timers alone. -/
theorem ExecTo.withTimers (e : ExecTo s i t) (hget : ∀ x, i ≠ .getDelay x) (dt st : Byte) :
    ∃ u, ExecTo { s with dt := dt, st := st } i u ∧ u = { t with dt := u.dt, st := u.st } := by
  obtain ⟨f, ht, hf⟩ := e.exists_unreadWrite_eq
  refine ⟨_, hf { s.unread with dt := dt, st := st } fun x hx => absurd hx (hget x), ?_⟩
  rw [ht]
  rfl

/-- Another run that differs in the hidden fields alone (spec/10_state.md R35). -/
theorem ExecTo.sameToProgram (e : ExecTo s i t) (h : s.SameToProgram u) : ∃ w, ExecTo u i w ∧ t.SameToProgram w := by
  obtain ⟨f, ht, hf⟩ := e.exists_unreadWrite_eq
  have hu : u = s.withUnread { u.unread with dt := s.dt, st := s.st } := h
  refine ⟨_, hu ▸ hf _ fun _ _ => rfl, ?_⟩
  rw [ht]
  rfl

theorem ExecTo.setDelay_dt {x : Nibble} (e : ExecTo s (.setDelay x) t) : t.dt = s.getV x := by
  cases e
  rfl

theorem ExecTo.setSound_st {x : Nibble} (e : ExecTo s (.setSound x) t) : t.st = s.getV x := by
  cases e
  rfl

end

/-- Settles O42: the other run takes the same write to the timers, and only SET_DELAY and SET_SOUND write one. -/
theorem onlyGetDelayReadsATimer : Obligations.OnlyGetDelayReadsATimer := by
  intro i s t dt st hget h
  have e := exec_to h
  obtain ⟨u, e', hsame⟩ := e.withTimers hget dt st
  refine ⟨u, e'.exec_eq, hsame, fun hset => ⟨e.dt_eq hset, e'.dt_eq hset⟩, fun hset => ⟨e.st_eq hset, e'.st_eq hset⟩,
    ?_, ?_⟩
  · rintro x rfl
    exact e'.setDelay_dt.trans e.setDelay_dt.symm
  · rintro x rfl
    exact e'.setSound_st.trans e.setSound_st.symm

/-- Settles O57: the other run is the same but for the hidden fields. -/
theorem hiddenStateIsUnobservable : Obligations.HiddenStateIsUnobservable := by
  intro i s u t hsame h
  obtain ⟨w, e', hsame'⟩ := (exec_to h).sameToProgram hsame
  exact ⟨w, e'.exec_eq, hsame'⟩

end Sys2Proof.Machine
end

section
/-! Memory (O32, O46): the next fetch after a data write, and the ROM load. -/

namespace Sys2Proof.Machine

/-! ## The bytes of the two data writes -/

/-- The digits of STORE_BCD by their offset from `I`, hundreds first (spec/44_index_mem.md R163). -/
theorem getElem_bcdDigits (b : Byte) (k : Nat) (h : k < (bcdDigits b).length) :
    (bcdDigits b)[k] = BitVec.ofNat 8 (b.toNat / 10 ^ (2 - k) % 10) := by
  have hk : k < 3 := h
  interval_cases k
  · have hundreds : b.toNat / 100 < 10 := by omega
    exact congrArg (BitVec.ofNat 8) (Nat.mod_eq_of_lt hundreds).symm
  · rfl
  · exact congrArg (fun n => BitVec.ofNat 8 (n % 10)) (Nat.div_one _).symm

/-- The registers of REG_DUMP by their offset from `I` (spec/44_index_mem.md R164). -/
theorem State.getElem_regsUpTo_ofNat (s : State) (x : Nibble) (k : Nat) (h : k < (s.regsUpTo x).length) :
    (s.regsUpTo x)[k] = s.getV (BitVec.ofNat 4 k) := by
  have hk : k < 16 := by
    have := s.length_regsUpTo x
    omega
  have hnat : (BitVec.ofNat 4 k).toNat = k := Nat.mod_eq_of_lt hk
  have hreg := s.getElem_regsUpTo x (BitVec.ofNat 4 k) (by omega)
  simpa only [hnat] using hreg

/-! ## The next fetch after a data write -/

/-- A fetch reads what the data write before it left, wherever `I` points (spec/20_memory.md R62). -/
theorem State.fetch_store (s : State) (hpc : s.pc.toNat ≤ 0xFFE) (bs : List Byte) (f : Nat → Byte)
    (hf : ∀ (k : Nat) (h : k < bs.length), bs[k] = f k) :
    State.fetch { s with mem := s.mem.writeBytes s.cfg.font s.i.toNat bs } = some (s.wordAfterStore bs.length f) := by
  rw [State.fetch_eq, State.wordAtPc_store s bs f hf]
  exact if_pos hpc

/-- Settles O32: each store is a data write of its bytes, and leaves `pc` alone. -/
theorem storeIsSeenByNextFetch : Obligations.StoreIsSeenByNextFetch := by
  intro x s hpc
  constructor
  · intro hin
    exact ⟨_, (ExecTo.storeBcd x hin).exec_eq, rfl, s.fetch_store hpc _ _ (getElem_bcdDigits _)⟩
  · intro hin
    have hfetch := s.fetch_store hpc _ _ (s.getElem_regsUpTo_ofNat x)
    rw [s.length_regsUpTo] at hfetch
    exact ⟨_, (ExecTo.regDump x hin).exec_eq, rfl, hfetch⟩

/-! ## The ROM load -/

section
variable (font : Vector Byte 80) (m : Memory) (rom : List Byte)

/-- A byte of the ROM that fits is read at its place (spec/20_memory.md R64). -/
theorem Memory.read_loadRom {i : Nat} (h : i < rom.length) (hfit : i < romMax) :
    Memory.read font (m.writeBytes font progBase (rom.take romMax)) (progBase + i) = rom[i] := by
  rw [Memory.read_writeBytes, dif_pos (by rw [List.length_take]; omega), List.getElem_take]
  simp only [Nat.add_sub_cancel_left]

/-- A byte below the program area or above the part of the ROM that fits is read as before (R64). -/
theorem Memory.read_loadRom_outside {a : Nat} (h : a < progBase ∨ progBase + min rom.length romMax ≤ a) :
    Memory.read font (m.writeBytes font progBase (rom.take romMax)) a = m.read font a := by
  rw [Memory.read_writeBytes, dif_neg]
  rw [List.length_take]
  omega

end

/-- A ROM load before the first step is not refused (spec/20_memory.md R64). -/
theorem State.loadRom_eq {s : State} (h : s.started = false) (rom : List Byte) :
    s.loadRom rom = .next { s with mem := s.mem.writeBytes s.cfg.font progBase (rom.take romMax) } := by
  simp [State.loadRom, h]

/-- Settles O46: the memory after the load is one write of the part that fits. -/
theorem loadRomCopiesWhatFits : Obligations.LoadRomCopiesWhatFits := by
  intro s rom hturn hstart
  have hload := (step_eq_perform hturn).trans (State.loadRom_eq (s := s.popAgenda) hstart rom)
  exact ⟨_, hload, fun _ h hfit => Memory.read_loadRom _ _ rom h hfit,
    fun _ h => Memory.read_loadRom_outside _ _ rom h⟩

end Sys2Proof.Machine
end

section
/-! Encoding (O1 to O6): the fields of a word, the decoder against the encoder in both directions, the decoder against
the opcode table, and the words it rejects. -/

namespace Sys2Proof

/-! ## Fields and bytes -/

/-- Settles O6, from the value of each field: what is left is that NN, NNN and the first byte are their two parts side
by side. -/
theorem fieldsOfEveryWord : Obligations.FieldsOfEveryWord := by
  intro w
  refine ⟨fieldOp_toNat w, fieldX_toNat w, fieldY_toNat w, fieldN_toNat w, fieldNN_toNat w, fieldNNN_toNat w,
    ?_, ?_, ?_, rfl, wordOfBytes_bytes w⟩
  · rw [fieldNN_toNat, fieldY_toNat, fieldN_toNat]
    omega
  · rw [fieldNNN_toNat, fieldX_toNat, fieldNN_toNat]
    omega
  · rw [highByte_toNat, fieldOp_toNat, fieldX_toNat]
    omega

/-! ## From an instruction to its word and back -/

/-- The word of a well-formed instruction decodes to it. Only the X that JUMP_OFFSET carries
beside its NNN needs the premise. -/
theorem decode_encode {i : Instr} (h : i.WellFormed) : decode (encode i) = .ok i := by
  cases i with
  | clear | ret => rfl
  | jumpOffset nnn x =>
    have hx : x = nnn.extractLsb' 8 4 := eq_of_beq h
    simp [encode, decode, hx]
  | copy | or | and | xor | add | sub | shr | subn | shl => simp [encode, decode, decodeAlu]
  | keyPressed | keyNotPressed => simp [encode, decode, decodeKey]
  | getDelay | waitKey | setDelay | setSound | addIndex | spriteAddr | storeBcd | regDump | regLoad =>
    simp [encode, decode, decodeMisc]
  | _ => simp [encode, decode]

/-- The byte decoder reads the word at the front. -/
theorem decodeBytes_word (w : Word) (rest : List Byte) :
    decodeBytes (highByte w :: lowByte w :: rest) = (decode w).map fun i => (i, rest) := by
  rw [decodeBytes, wordOfBytes_bytes]

/-- Settles O1: the bytes of an instruction are those of its word. -/
theorem encodedInstructionDecodesBack : Obligations.EncodedInstructionDecodesBack := by
  intro i h
  refine ⟨decode_encode h, fun rest => (decodeBytes_word (encode i) rest).trans ?_⟩
  rw [decode_encode h]
  rfl

/-! ## From a word to its instruction and back -/

section
variable {w : Word} {i : Instr}

theorem packNNN_of_op {op : Nibble} (hop : (fieldOp w).toNat = op.toNat) : packNNN op (fieldNNN w) = w := by
  rw [← BitVec.eq_of_toNat_eq hop, packNNN_fields]

theorem packXNN_of_op {op : Nibble} (hop : (fieldOp w).toNat = op.toNat) : packXNN op (fieldX w) (fieldNN w) = w := by
  rw [← BitVec.eq_of_toNat_eq hop, packXNN_fields]

theorem packXYN_of_op {op : Nibble} (hop : (fieldOp w).toNat = op.toNat) :
    packXYN op (fieldX w) (fieldY w) (fieldN w) = w := by
  rw [← BitVec.eq_of_toNat_eq hop, packXYN_fields]

theorem packXNN_of_op_nn {op : Nibble} {nn : Byte} (hop : (fieldOp w).toNat = op.toNat)
    (hnn : (fieldNN w).toNat = nn.toNat) : packXNN op (fieldX w) nn = w := by
  rw [← BitVec.eq_of_toNat_eq hnn, packXNN_of_op hop]

theorem packXYN_of_op_n {op n : Nibble} (hop : (fieldOp w).toNat = op.toNat) (hn : (fieldN w).toNat = n.toNat) :
    packXYN op (fieldX w) (fieldY w) n = w := by
  rw [← BitVec.eq_of_toNat_eq hn, packXYN_of_op hop]

/-- NNN holds X as its top nibble (spec/30_encoding.md R72), so the BNNN decoded from a word is well-formed. -/
theorem jumpOffset_fields_wellFormed (w : Word) : (Instr.jumpOffset (fieldNNN w) (fieldX w)).WellFormed := by
  have hx := fieldX_packNNN (fieldOp w) (fieldNNN w)
  rw [packNNN_fields] at hx
  exact beq_iff_eq.mpr hx

theorem encode_of_decodeZero (h : decodeZero w = .ok i) : i.WellFormed ∧ encode i = w := by
  unfold decodeZero at h
  split at h
  · next hw => cases h; exact ⟨rfl, hw.symm⟩
  split at h
  · next hw => cases h; exact ⟨rfl, hw.symm⟩
  · cases h

theorem encode_of_decodeAlu (hop : (fieldOp w).toNat = 0x8) (h : decodeAlu w = .ok i) :
    i.WellFormed ∧ encode i = w := by
  unfold decodeAlu at h
  split at h
  case h_10 => cases h
  all_goals next hn => cases h; exact ⟨rfl, packXYN_of_op_n hop hn⟩

theorem encode_of_decodeKey (hop : (fieldOp w).toNat = 0xE) (h : decodeKey w = .ok i) :
    i.WellFormed ∧ encode i = w := by
  unfold decodeKey at h
  split at h
  case h_3 => cases h
  all_goals next hnn => cases h; exact ⟨rfl, packXNN_of_op_nn hop hnn⟩

theorem encode_of_decodeMisc (hop : (fieldOp w).toNat = 0xF) (h : decodeMisc w = .ok i) :
    i.WellFormed ∧ encode i = w := by
  unfold decodeMisc at h
  split at h
  case h_10 => cases h
  all_goals next hnn => cases h; exact ⟨rfl, packXNN_of_op_nn hop hnn⟩

/-- The instruction a word decodes to is well-formed, and the word is its word. The cases are the values of `OP`, from
`0x0` at `h_1` to `0xF` at `h_16`. -/
theorem encode_of_decode (h : decode w = .ok i) : i.WellFormed ∧ encode i = w := by
  unfold decode at h
  split at h
  case h_1 => exact encode_of_decodeZero h
  case h_9 hop => exact encode_of_decodeAlu hop h
  case h_12 hop => cases h; exact ⟨jumpOffset_fields_wellFormed w, packNNN_of_op hop⟩
  case h_15 hop => exact encode_of_decodeKey hop h
  case h_16 =>
    have hlt := (fieldOp w).isLt
    simp only [imp_false] at *
    exact encode_of_decodeMisc (by omega) h
  case h_2 hop | h_3 hop | h_11 hop => cases h; exact ⟨rfl, packNNN_of_op hop⟩
  case h_4 hop | h_5 hop | h_7 hop | h_8 hop | h_13 hop => cases h; exact ⟨rfl, packXNN_of_op hop⟩
  case h_6 hop | h_10 hop | h_14 hop => cases h; exact ⟨rfl, packXYN_of_op hop⟩

end

/-- Settles O2: in each case of the decoder the word is put together again from the fields the instruction took. -/
theorem decodedWordEncodesBack : Obligations.DecodedWordEncodesBack := fun _ _ => encode_of_decode

/-! ## The words the decoder rejects -/

section
variable (w : Word)

theorem decodeZero_eq_error_iff : decodeZero w = .error (.unmapped w) ↔ w ≠ 0x00E0 ∧ w ≠ 0x00EE := by
  unfold decodeZero
  split
  · next hw => simp [hw]
  split
  · next hw => simp [hw]
  · next h0 h1 => simp [h0, h1]

theorem decodeAlu_eq_error_iff :
    decodeAlu w = .error (.unmapped w) ↔ (fieldN w).toNat ∈ [0x8, 0x9, 0xA, 0xB, 0xC, 0xD, 0xF] := by
  have hlt := (fieldN w).isLt
  unfold decodeAlu
  generalize (fieldN w).toNat = n at *
  interval_cases n <;> simp

theorem decodeKey_eq_error_iff :
    decodeKey w = .error (.unmapped w) ↔ (fieldNN w).toNat ∉ [0x9E, 0xA1] := by
  unfold decodeKey
  split
  case h_3 => simp_all
  all_goals next hnn => simp [hnn]

theorem decodeMisc_eq_error_iff :
    decodeMisc w = .error (.unmapped w) ↔
      (fieldNN w).toNat ∉ [0x07, 0x0A, 0x15, 0x18, 0x1E, 0x29, 0x33, 0x55, 0x65] := by
  unfold decodeMisc
  split
  case h_10 => simp_all
  all_goals next hnn => simp [hnn]

end

/-- Settles O4: `OP` has 16 values, and only four of them dispatch further. -/
theorem unmappedWordsByFamily : Obligations.UnmappedWordsByFamily := by
  intro w
  rw [← decodeZero_eq_error_iff, ← decodeAlu_eq_error_iff, ← decodeKey_eq_error_iff, ← decodeMisc_eq_error_iff]
  have hlt := (fieldOp w).isLt
  unfold decode
  generalize (fieldOp w).toNat = op at *
  interval_cases op <;> simp

/-! ## The opcode table -/

namespace Laws.RowOfInstr

/-- The family `RowOfInstr` put together: every instruction's word selects a row with its mnemonic. -/
theorem exists_row : ∀ i : Instr, Statement i
  | .clear => clear
  | .ret => ret
  | .jump nnn => jump nnn
  | .call nnn => call nnn
  | .skipEqImm x nn => skipEqImm x nn
  | .skipNeqImm x nn => skipNeqImm x nn
  | .skipEqReg x y n => skipEqReg x y n
  | .loadImm x nn => loadImm x nn
  | .addImm x nn => addImm x nn
  | .copy x y => copy x y
  | .or x y => or x y
  | .and x y => and x y
  | .xor x y => xor x y
  | .add x y => add x y
  | .sub x y => sub x y
  | .shr x y => shr x y
  | .subn x y => subn x y
  | .shl x y => shl x y
  | .skipNeqReg x y n => skipNeqReg x y n
  | .setIndex nnn => setIndex nnn
  | .jumpOffset nnn x => jumpOffset nnn x
  | .random x nn => random x nn
  | .draw x y n => draw x y n
  | .keyPressed x => keyPressed x
  | .keyNotPressed x => keyNotPressed x
  | .getDelay x => getDelay x
  | .waitKey x => waitKey x
  | .setDelay x => setDelay x
  | .setSound x => setSound x
  | .addIndex x => addIndex x
  | .spriteAddr x => spriteAddr x
  | .storeBcd x => storeBcd x
  | .regDump x => regDump x
  | .regLoad x => regLoad x

end Laws.RowOfInstr

/-- The mnemonic of the instruction a word decodes to. -/
def decodedMnemonic (w : Word) : Option String := (decode w).toOption.map Instr.mnemonic

theorem decodedMnemonic_eq_some_iff {w : Word} {m : String} :
    decodedMnemonic w = some m ↔ ∃ i : Instr, decode w = .ok i ∧ i.mnemonic = m := by
  unfold decodedMnemonic
  cases decode w <;> simp [Except.toOption]

/-- What the choice of an instruction looks at (spec/30_encoding.md R73 to R78): `OP`, and beside it the whole word in
family 0, `N` in family 8, `NN` in families E and F. -/
theorem decodedMnemonic_congr {w v : Word} (hop : fieldOp w = fieldOp v) (hzero : (fieldOp v).toNat = 0x0 → w = v)
    (halu : (fieldOp v).toNat = 0x8 → fieldN w = fieldN v)
    (hbyte : 0xE ≤ (fieldOp v).toNat → fieldNN w = fieldNN v) : decodedMnemonic w = decodedMnemonic v := by
  have hlt := (fieldOp v).isLt
  unfold decodedMnemonic decode
  rw [hop]
  generalize (fieldOp v).toNat = op at *
  interval_cases op
  any_goals rfl
  · rw [hzero rfl]
  · simp only [decodeAlu, halu rfl]
    split <;> rfl
  · simp only [decodeKey, hbyte (by omega)]
    split <;> rfl
  · simp only [decodeMisc, hbyte (by omega)]
    split <;> rfl

/-- The bits of a row, as a word, decode to an instruction of the row. -/
theorem decodedMnemonic_bits : ∀ r ∈ opcodeTable, decodedMnemonic r.bits = some r.mnemonic := by decide

theorem opcodeTable_mnemonic_nodup : (opcodeTable.map Row.mnemonic).Nodup := by decide

/-- Every mask holds the fields the choice looks at. -/
theorem opcodeTable_mask : ∀ r ∈ opcodeTable,
    fieldOp r.mask = 0xF ∧ ((fieldOp r.bits).toNat = 0x0 → r.mask = 0xFFFF) ∧
    ((fieldOp r.bits).toNat = 0x8 → fieldN r.mask = 0xF) ∧
    (0xE ≤ (fieldOp r.bits).toNat → fieldNN r.mask = 0xFF) := by decide

section
variable (w m : Word)

theorem fieldOp_and : fieldOp (w &&& m) = fieldOp w &&& fieldOp m := BitVec.extractLsb'_and
theorem fieldN_and : fieldN (w &&& m) = fieldN w &&& fieldN m := BitVec.extractLsb'_and
theorem fieldNN_and : fieldNN (w &&& m) = fieldNN w &&& fieldNN m := BitVec.extractLsb'_and

end

/-- A row selects words that decode as the row's own bits do. -/
theorem decodedMnemonic_of_selects {r : Row} {w : Word} (hr : r ∈ opcodeTable) (h : r.selects w = true) :
    decodedMnemonic w = some r.mnemonic := by
  have hbits : w &&& r.mask = r.bits := eq_of_beq h
  obtain ⟨hop, hzero, halu, hbyte⟩ := opcodeTable_mask r hr
  rw [← decodedMnemonic_bits r hr]
  apply decodedMnemonic_congr
  · rw [← hbits, fieldOp_and, hop]
    exact BitVec.and_allOnes.symm
  · intro h0
    rw [← hbits, hzero h0]
    exact BitVec.and_allOnes.symm
  · intro h8
    rw [← hbits, fieldN_and, halu h8]
    exact BitVec.and_allOnes.symm
  · intro hEF
    rw [← hbits, fieldNN_and, hbyte hEF]
    exact BitVec.and_allOnes.symm

/-- Settles O3. A selecting row gives the mnemonic; conversely the word is that of the instruction it decodes to, so the
instruction's row selects it, and no other row has that mnemonic. -/
theorem decodeFollowsOpcodeTable : Obligations.DecodeFollowsOpcodeTable := by
  intro w r hr
  rw [← decodedMnemonic_eq_some_iff]
  refine ⟨decodedMnemonic_of_selects hr, fun h => ?_⟩
  obtain ⟨i, hi, him⟩ := decodedMnemonic_eq_some_iff.mp h
  obtain ⟨q, hq, hqm, hsel⟩ := Laws.RowOfInstr.exists_row i
  have hqr : q = r := List.inj_on_of_nodup_map opcodeTable_mnemonic_nodup hq hr (hqm.trans him)
  rwa [hqr, (encode_of_decode hi).2] at hsel

/-- Settles O5, by running the decoder on each word. -/
theorem sampleWordsDecodeAsListed : Obligations.SampleWordsDecodeAsListed := by
  unfold Obligations.SampleWordsDecodeAsListed
  decide

end Sys2Proof
end

section
/-! Control flow (O7 to O10, O12 to O15, O55): the cases of a `Step`, the control transfers, and the halted core. -/

namespace Sys2Proof

/-- A word that no row of the opcode table selects has no instruction: the instruction's own row would select it
(spec/30_encoding.md R79, R84). -/
theorem exists_decode_eq_error {w : Word} (h : ∀ r ∈ opcodeTable, r.selects w = false) :
    ∃ e, decode w = .error e := by
  cases hw : decode w with
  | error e => exact ⟨e, rfl⟩
  | ok i =>
    obtain ⟨r, hr, -, hsel⟩ := Laws.RowOfInstr.exists_row i
    rw [(encode_of_decode hw).2, h r hr] at hsel
    cases hsel

end Sys2Proof

namespace Sys2Proof.Machine

/-! ## The cases of a `Step` -/

/-- ADVANCE is the addition of 2 in the width of `pc` (spec/40_flow.md R100). -/
theorem State.advance_eq (s : State) : s.advance = { s with pc := s.pc + 2 } := by
  have hpc : trunc16 (s.pc.toNat + 2) = s.pc + 2 := BitVec.eq_of_toNat_eq (by simp [trunc16])
  rw [State.advance, hpc]
  rfl

section
variable {s : State}

/-- A `Step` that is due on a running core is one instruction, off the agenda and with the core marked as started. -/
theorem step_running (hturn : s.nextTransition = .step) (hrun : s.err = .none) :
    step s = s.popAgenda.markStarted.runOne :=
  (step_eq_perform hturn).trans (s.popAgenda.executionStep_running hrun)

theorem State.runOne_of_decode_ok {i : Instr} (hpc : s.pc.toNat ≤ 0xFFE) (h : decode s.wordAtPc = .ok i) :
    s.runOne = exec i s.advance := by
  rw [s.runOne_eq, if_pos hpc, h]

theorem State.runOne_of_decode_error {e : Reject} (hpc : s.pc.toNat ≤ 0xFFE) (h : decode s.wordAtPc = .error e) :
    s.runOne = .next s.advance := by
  rw [s.runOne_eq, if_pos hpc, h]

theorem State.runOne_outside (hpc : 0xFFE < s.pc.toNat) : s.runOne = .next (s.raise .fetchBounds) := by
  rw [s.runOne_eq, if_neg (Nat.not_le.mpr hpc)]

end

/-- Settles O8: the decoder gives no instruction, so all that is left of the step is ADVANCE. -/
theorem unmappedWordOnlyAdvances : Obligations.UnmappedWordOnlyAdvances := by
  intro s ⟨hturn, hrun, hpc⟩ hrows
  obtain ⟨e, he⟩ := exists_decode_eq_error hrows
  have hone := State.runOne_of_decode_error (s := s.popAgenda.markStarted) hpc he
  rw [step_running hturn hrun, hone, State.advance_eq]
  rfl

/-- Settles O7: FETCH reads the same word off the agenda and marked, and `exec` starts from the state after ADVANCE. -/
theorem stepRunsDecodedInstruction : Obligations.StepRunsDecodedInstruction := by
  intro s i ⟨hturn, hrun, hpc⟩ hi
  have hone := State.runOne_of_decode_ok (s := s.popAgenda.markStarted) hpc hi
  rw [step_running hturn hrun, hone, State.advance_eq]
  rfl

/-- Settles O9: the error is raised at the fetch, before ADVANCE. -/
theorem fetchOutsideMemoryHalts : Obligations.FetchOutsideMemoryHalts := fun s hturn hrun hpc =>
  (step_running hturn hrun).trans (State.runOne_outside (s := s.popAgenda.markStarted) hpc)

/-! ## The halted core -/

/-- Settles O10: all that happens is the request's leaving the agenda. -/
theorem haltedCoreTakesNoStep : Obligations.HaltedCoreTakesNoStep := fun s hturn hhalt =>
  (step_eq_perform hturn).trans (s.popAgenda.executionStep_halted hhalt)

/-- `t` differs from `s` at most in what ticks and host operations write on a halted core (spec/60_exceptions.md R230),
and in the agenda and the history. -/
abbrev State.FrozenTo (s t : State) : Prop :=
  t = { s with dt := t.dt, st := t.st, redraw := t.redraw, key := t.key, timersRunning := t.timersRunning,
               beep := t.beep, agenda := t.agenda, history := t.history }

/-- On a halted core every transition but a reset (spec/60_exceptions.md R220) leaves the rest as it is. The two that
could write more do not act: a `Step` changes nothing, and a ROM load is refused. -/
theorem State.Halted.perform_reset_or_frozenTo {s t : State} (hhalt : s.Halted) (hstart : s.started = true)
    {tr : Transition} (h : s.perform tr = .next t) : (∃ a b rate, tr = .reset a b rate) ∨ s.FrozenTo t := by
  cases tr with
  | reset a b rate => exact .inl ⟨a, b, rate, rfl⟩
  | step =>
    injection (s.executionStep_halted hhalt).symm.trans h with h
    exact .inr (h ▸ rfl)
  | loadRom bytes =>
    obtain ⟨hfresh, -⟩ := State.loadRom_next h
    rw [hstart] at hfresh
    cases hfresh
  | tick => obtain ⟨-, rfl⟩ := State.tick_next h; exact .inr rfl
  | initializeTimers => obtain ⟨-, rfl⟩ := State.initializeTimers_next h; exact .inr rfl
  | consumeFrame =>
    injection h with h
    subst h
    rw [s.consumeFrame_frame]
    exact .inr rfl
  | keyUpdate | queryRedraw | queryPC | queryRate | queryErr => injection h with h; subst h; exact .inr rfl

/-- Settles O55: the transition is performed off the agenda, and what a halted core holds there it holds in `s`. -/
theorem haltedCoreIsFrozen : Obligations.HaltedCoreIsFrozen := fun s _ hhalt hstart h =>
  State.Halted.perform_reset_or_frozenTo (s := s.popAgenda) hhalt hstart h

/-! ## Control transfer -/

/-- Settles O12, from the two next states of RETURN. -/
theorem returnPopsNewestEntry : Obligations.ReturnPopsNewestEntry :=
  ⟨decode_encode (i := .ret) rfl, fun _ =>
    ⟨fun older w h => (ExecTo.retPop older w h).exec_eq, fun h => (ExecTo.retEmpty h).exec_eq⟩⟩

/-- Settles O14, from the two next states of CALL. -/
theorem callPushesAdvancedCounter : Obligations.CallPushesAdvancedCounter := fun nnn _ =>
  ⟨fun h => ⟨zext16 nnn, (ExecTo.callPush nnn h).exec_eq, zext16_toNat nnn⟩,
    fun h => (ExecTo.callFull nnn h.ge).exec_eq⟩

/-- Settles O15: the CALL latched no error, so it pushed, and RETURN pops the entry it pushed. -/
theorem returnUndoesCall : Obligations.ReturnUndoesCall := by
  intro nnn s t u hcall hsame hrun hstack
  cases exec_to hcall with
  | callPush _ hroom => exact (ExecTo.retPop s.stack s.pc hstack).exec_eq
  | callFull _ hfull =>
    rw [State.raise_err, hrun] at hsame
    cases hsame

/-- The sum of JUMP_OFFSET fits in `pc`: its greatest value is `0xFFF + 0xFF` (spec/40_flow.md R107). -/
theorem jumpOffset_target_toNat (nnn : Addr) (b : Byte) :
    (trunc16 ((zext16 nnn).toNat + b.toNat)).toNat = nnn.toNat + b.toNat := by
  have := nnn.isLt
  have := b.isLt
  rw [trunc16, BitVec.toNat_ofNat, zext16_toNat]
  omega

/-- BNNN with the top nibble of NNN as its X has a word (spec/30_encoding.md R72). -/
theorem jumpOffset_wellFormed {nnn : Addr} {x : Nibble} (h : x.toNat = nnn.toNat / 256) :
    (Instr.jumpOffset nnn x).WellFormed := by
  have hx : x = nnn.extractLsb' 8 4 := by
    apply BitVec.eq_of_toNat_eq
    have := x.isLt
    rw [BitVec.extractLsb'_toNat, Nat.shiftRight_eq_div_pow]
    omega
  exact beq_iff_eq.mpr hx

/-- Settles O13: both words are the encoder's, and both targets fit in `pc`. -/
theorem jumpTargets : Obligations.JumpTargets := by
  intro nnn s
  refine ⟨?_, ⟨zext16 nnn, rfl, zext16_toNat nnn⟩, fun x hx => ⟨?_, _, rfl, jumpOffset_target_toNat nnn _⟩⟩
  · rw [wordNNN_eq]
    exact decode_encode (i := .jump nnn) rfl
  · rw [wordNNN_eq]
    exact decode_encode (i := .jumpOffset nnn x) (jumpOffset_wellFormed hx)

end Sys2Proof.Machine
end

section
/-! The conditional skips on registers (O16, O17): a skip as a comparison of two bytes. -/

namespace Sys2Proof.Machine

/-- A taken skip adds 2 in the width of `pc`, as ADVANCE does (spec/41_skip.md R124). -/
theorem State.skipIf_eq_add (s : State) (c : Bool) : s.skipIf c = { s with pc := if c then s.pc + 2 else s.pc } := by
  cases c with
  | false => rfl
  | true => exact s.advance_eq

/-- A skip on equality (spec/41_skip.md R120, R122). -/
theorem State.skipIf_beq (s : State) (a b : Byte) :
    s.skipIf (a == b) = { s with pc := if a = b then s.pc + 2 else s.pc } := by
  simp only [State.skipIf_eq_add, beq_iff_eq]

/-- A skip on inequality (spec/41_skip.md R121, R123). -/
theorem State.skipIf_bne (s : State) (a b : Byte) :
    s.skipIf (a != b) = { s with pc := if a = b then s.pc else s.pc + 2 } := by
  simp only [State.skipIf_eq_add, bne_iff_ne, ite_not]

/-- Settles O16: both words are the encoder's, and each skip compares `V[X]` with NN. -/
theorem skipsOnImmediate : Obligations.SkipsOnImmediate := by
  intro x nn s
  refine ⟨?_, ?_, ?_, ?_⟩
  · rw [wordXNN_eq]
    exact decode_encode (i := .skipEqImm x nn) rfl
  · rw [wordXNN_eq]
    exact decode_encode (i := .skipNeqImm x nn) rfl
  · rw [(ExecTo.skipEqImm x nn).exec_eq, State.skipIf_beq]
  · rw [(ExecTo.skipNeqImm x nn).exec_eq, State.skipIf_bne]

/-- Settles O17: both words are the encoder's for every N, and each skip compares `V[X]` with `V[Y]`. -/
theorem skipsOnRegisters : Obligations.SkipsOnRegisters := by
  intro x y n s
  refine ⟨?_, ?_, ?_, ?_⟩
  · rw [wordXYN_eq]
    exact decode_encode (i := .skipEqReg x y n) rfl
  · rw [wordXYN_eq]
    exact decode_encode (i := .skipNeqReg x y n) rfl
  · rw [(ExecTo.skipEqReg x y n).exec_eq, State.skipIf_beq]
  · rw [(ExecTo.skipNeqReg x y n).exec_eq, State.skipIf_bne]

end Sys2Proof.Machine
end

section
/-! Register and immediate, and the masked random byte (O19, O20): an instruction that writes one register. -/

namespace Sys2Proof.Machine

/-- The register file of an instruction whose next state is one register write. -/
theorem ExecTo.regsBecome_of_setV {s : State} {i : Instr} {x : Nibble} {b : Byte} (e : ExecTo s i (s.setV x b)) :
    RegsBecome i s (fun k => if k = x then b else s.getV k) :=
  ⟨_, e.exec_eq, fun k => s.getV_setV x k b⟩

/-- Truncation to a byte is the residue modulo 256 (spec/42_reg_imm.md R131). -/
theorem trunc8_eq_ofNat_mod (n : Nat) : trunc8 n = BitVec.ofNat 8 (n % 256) :=
  BitVec.eq_of_toNat_eq (by simp [trunc8])

/-- Settles O19: both words are the encoder's, and each instruction is one register write. -/
theorem loadAndAddImmediate : Obligations.LoadAndAddImmediate := by
  intro x nn s
  refine ⟨?_, ?_, (ExecTo.loadImm x nn).regsBecome_of_setV, ?_⟩
  · rw [wordXNN_eq]
    exact decode_encode (i := .loadImm x nn) rfl
  · rw [wordXNN_eq]
    exact decode_encode (i := .addImm x nn) rfl
  · rw [← trunc8_eq_ofNat_mod]
    exact (ExecTo.addImm x nn).regsBecome_of_setV

/-- Settles O20: the draw is counted, and then one register is written, with the masked byte. -/
theorem randomIsMaskedDraw : Obligations.RandomIsMaskedDraw := by
  intro x nn s
  have hregs (k : Nibble) : (s.drawn.setV x (s.rand &&& nn)).getV k = if k = x then s.rand &&& nn else s.getV k :=
    s.drawn.getV_setV x k _
  refine ⟨_, (ExecTo.random x nn).exec_eq, hregs, fun j hj => ?_⟩
  calc
    _ = (s.rand &&& nn).getLsbD j := congrArg (·.getLsbD j) ((hregs x).trans (if_pos rfl))
    _ = false := by rw [BitVec.getLsbD_and, hj, Bool.and_false]

end Sys2Proof.Machine
end

section
/-! Register-register instructions (O21 to O25): a result written to `V[X]`, and where there is a flag, the flag written
to VF after it. -/

namespace Sys2Proof

/-- A word given by `OP`, `X`, `Y`, `N` decodes to the instruction it is the word of. -/
theorem decode_wordXYN {i : Instr} {op x y n : Nibble} (hword : encode i = packXYN op x y n) (h : i.WellFormed) :
    decode (wordXYN op x y n) = .ok i := by
  rw [wordXYN_eq, ← hword, decode_encode h]

end Sys2Proof

namespace Sys2Proof.Machine

/-! ## Flags as numbers -/

namespace Flags

theorem ofBool_decide (p : Prop) [Decidable p] : ofBool (decide p) = if p then 0x01 else 0x00 := by
  simp only [ofBool, decide_eq_true_eq]

theorem carry_eq (a b : Byte) : carry a b = if a.toNat + b.toNat > 255 then 0x01 else 0x00 := ofBool_decide _

theorem noBorrow_eq (a b : Byte) : noBorrow a b = if a.toNat ≥ b.toNat then 0x01 else 0x00 := ofBool_decide _

theorem ofBool_eq_ofNat (c : Bool) : ofBool c = BitVec.ofNat 8 c.toNat := by
  cases c <;> rfl

/-- A bit as a flag is a binary digit of the byte. -/
theorem ofBool_getLsbD (t : Byte) (k : Nat) : ofBool (t.getLsbD k) = BitVec.ofNat 8 (t.toNat / 2 ^ k % 2) := by
  rw [ofBool_eq_ofNat, BitVec.getLsbD, Nat.toNat_testBit]

theorem shiftedOutLow_eq (t : Byte) : shiftedOutLow t = BitVec.ofNat 8 (t.toNat % 2) := by
  rw [shiftedOutLow, ofBool_getLsbD, pow_zero, Nat.div_one]

/-- The top digit of a byte needs no residue: the quotient by 128 is below 2. -/
theorem shiftedOutHigh_eq (t : Byte) : shiftedOutHigh t = BitVec.ofNat 8 (t.toNat / 128) := by
  have htop : t.toNat / 2 ^ 7 % 2 = t.toNat / 128 := by omega
  rw [shiftedOutHigh, ofBool_getLsbD, htop]

end Flags

/-! ## Results as numbers -/

/-- The difference of two bytes is the residue of the integers' difference (spec/43_alu.md R145, R147). -/
theorem byte_sub_eq_ofInt (a b : Byte) : a - b = BitVec.ofInt 8 ((a.toNat - b.toNat : Int) % 256) := by
  apply BitVec.eq_of_toNat_eq
  rw [BitVec.toNat_sub, BitVec.toNat_ofInt]
  omega

/-- A logical shift to the right by one place is the half (spec/43_alu.md R146). -/
theorem byte_ushiftRight_one (t : Byte) : t >>> 1 = BitVec.ofNat 8 (t.toNat / 2) := by
  apply BitVec.eq_of_toNat_eq
  rw [BitVec.toNat_ushiftRight, Nat.shiftRight_eq_div_pow, BitVec.toNat_ofNat]
  omega

/-! ## The instructions -/

/-- The register file of an instruction whose next state is a result and then a flag: the flag is what VF keeps, also
where X is 15 (spec/43_alu.md R149). -/
theorem ExecTo.regsBecome_of_setVThenFlag {s : State} {i : Instr} {x : Nibble} {r flag : Byte}
    (e : ExecTo s i (s.setVThenFlag x r flag)) :
    RegsBecome i s (fun k => if k = 0xF then flag else if k = x then r else s.getV k) :=
  ⟨_, e.exec_eq, fun k => s.getV_setVThenFlag x k r flag⟩

/-- Settles O21: the next state is one register write. -/
theorem copyWritesOneRegister : Obligations.CopyWritesOneRegister := fun x y _ =>
  ⟨decode_wordXYN rfl rfl, (ExecTo.copy x y).regsBecome_of_setV⟩

/-- Settles O22: each next state is one register write, and no flag is written. -/
theorem bitwiseLeavesFlagAlone : Obligations.BitwiseLeavesFlagAlone := fun x y _ =>
  ⟨(ExecTo.or x y).regsBecome_of_setV, (ExecTo.and x y).regsBecome_of_setV, (ExecTo.xor x y).regsBecome_of_setV⟩

/-- Settles O23: the sum truncated, then the carry. -/
theorem addSetsCarry : Obligations.AddSetsCarry := by
  intro x y s
  have hadd := (ExecTo.add (s := s) x y).regsBecome_of_setVThenFlag
  rw [trunc8_eq_ofNat_mod, Flags.carry_eq] at hadd
  exact ⟨decode_wordXYN rfl rfl, hadd⟩

/-- Settles O24: each difference of bytes as the residue of the integers', then the flag. -/
theorem subtractSetsNoBorrow : Obligations.SubtractSetsNoBorrow := by
  intro x y s
  have hsub := (ExecTo.sub (s := s) x y).regsBecome_of_setVThenFlag
  have hsubn := (ExecTo.subn (s := s) x y).regsBecome_of_setVThenFlag
  rw [byte_sub_eq_ofInt, Flags.noBorrow_eq] at hsub hsubn
  exact ⟨decode_wordXYN rfl rfl, decode_wordXYN rfl rfl, hsub, hsubn⟩

/-- Settles O25: half and double of the operand that the dialect selects, then the digit shifted out. -/
theorem shiftsKeepTheBitShiftedOut : Obligations.ShiftsKeepTheBitShiftedOut := by
  intro x y s t ht
  obtain rfl : t = s.shiftSource x y := ht
  have hshr := (ExecTo.shr (s := s) x y).regsBecome_of_setVThenFlag
  have hshl := (ExecTo.shl (s := s) x y).regsBecome_of_setVThenFlag
  rw [byte_ushiftRight_one, Flags.shiftedOutLow_eq] at hshr
  rw [trunc8_eq_ofNat_mod, Flags.shiftedOutHigh_eq] at hshl
  exact ⟨decode_wordXYN rfl rfl, decode_wordXYN rfl rfl, hshr, hshl⟩

end Sys2Proof.Machine
end

section
/-! Index register and memory (O26 to O31): the writes of `I`, and the moves between registers and memory byte by byte. -/

namespace Sys2Proof

/-- A word given by `OP`, `NNN` decodes to the instruction it is the word of. -/
theorem decode_wordNNN {i : Instr} {op : Nibble} {nnn : Addr} (hword : encode i = packNNN op nnn) (h : i.WellFormed) :
    decode (wordNNN op nnn) = .ok i := by
  rw [wordNNN_eq, ← hword, decode_encode h]

/-- A word given by `OP`, `X`, `NN` decodes to the instruction it is the word of. -/
theorem decode_wordXNN {i : Instr} {op x : Nibble} {nn : Byte} (hword : encode i = packXNN op x nn) (h : i.WellFormed) :
    decode (wordXNN op x nn) = .ok i := by
  rw [wordXNN_eq, ← hword, decode_encode h]

end Sys2Proof

namespace Sys2Proof.Machine

/-! ## The index register -/

/-- A glyph address is not truncated: it is at most `0x04B` (spec/44_index_mem.md R162). -/
theorem glyphAddr_toNat (b : Byte) : (glyphAddr b).toNat = fontBase + b.toNat % 16 * 5 := by
  rw [glyphAddr, trunc16, BitVec.toNat_ofNat, fontBase]
  omega

/-- The flag of ADD_INDEX as the crossing out of the memory (spec/44_index_mem.md R161). -/
theorem Flags.leavesMemory_eq (old sum : Nat) :
    leavesMemory old sum = if old ≤ 0x0FFF ∧ sum > 0x0FFF then 0x01 else 0x00 := by
  rw [leavesMemory, ← Bool.decide_and, ofBool_decide]

/-- Settles O26: both words are the encoder's, and neither address is truncated. -/
theorem indexLoads : Obligations.IndexLoads := fun _ =>
  ⟨fun nnn => ⟨decode_wordNNN rfl rfl, _, (ExecTo.setIndex nnn).exec_eq, zext16_toNat nnn⟩,
    fun x => ⟨decode_wordXNN rfl rfl, _, (ExecTo.spriteAddr x).exec_eq, glyphAddr_toNat _⟩⟩

/-- Settles O27: `I` and the flag are both computed from the registers before the first write. -/
theorem addIndexFlagsLeavingMemory : Obligations.AddIndexFlagsLeavingMemory := by
  intro x s
  refine ⟨_, _, (ExecTo.addIndex x).exec_eq, BitVec.toNat_ofNat _ _, fun k => ?_⟩
  rw [← Flags.leavesMemory_eq]
  exact s.getElem_setV 0xF k _

/-! ## The data writes -/

section
variable (font : Vector Byte 80) (m : Memory) {bs : List Byte} {base : Nat}

/-- A byte written by consecutive writes is read at its place (spec/20_memory.md R56). -/
theorem Memory.read_writeBytes_inside {k : Nat} (h : k < bs.length) :
    Memory.read font (m.writeBytes font base bs) (base + k) = bs[k] := by
  rw [Memory.read_writeBytes, dif_pos (by omega)]
  simp only [Nat.add_sub_cancel_left]

/-- A byte outside the range of consecutive writes is read as before. -/
theorem Memory.read_writeBytes_outside {a : Nat} (h : a < base ∨ base + bs.length ≤ a) :
    Memory.read font (m.writeBytes font base bs) a = m.read font a := by
  rw [Memory.read_writeBytes, dif_neg (by omega)]

end

/-- The memory after REG_DUMP holds every register up to `V[X]` at its place (spec/44_index_mem.md R164). -/
theorem State.read_writeBytes_regsUpTo (s : State) {x k : Nibble} (h : k.toNat ≤ x.toNat) :
    Memory.read s.cfg.font (s.mem.writeBytes s.cfg.font s.i.toNat (s.regsUpTo x)) (s.i.toNat + k.toNat) = s.getV k := by
  have hk : k.toNat < (s.regsUpTo x).length := by
    rw [s.length_regsUpTo]
    omega
  rw [Memory.read_writeBytes_inside _ _ hk, s.getElem_regsUpTo]

/-- Settles O28: in bounds, the three digits are one data write; out of bounds, only the warning is recorded. -/
theorem storeBcdStoresDigits : Obligations.StoreBcdStoresDigits := by
  intro x s
  have hlen : (bcdDigits (s.getV x)).length = 3 := rfl
  refine ⟨decode_wordXNN rfl rfl, fun hin => ⟨_, (ExecTo.storeBcd x hin).exec_eq, ?_, ?_, ?_, fun a ha => ?_⟩,
    fun hout => (ExecTo.storeBcdOutside x hout).exec_eq⟩
  · exact Memory.read_writeBytes_inside _ _ (k := 0) (by omega)
  · exact Memory.read_writeBytes_inside _ _ (k := 1) (by omega)
  · exact Memory.read_writeBytes_inside _ _ (k := 2) (by omega)
  · exact Memory.read_writeBytes_outside _ _ (by omega)

/-- Settles O29: in bounds, the registers are one data write; out of bounds, only the warning is recorded. -/
theorem regDumpStoresRegisters : Obligations.RegDumpStoresRegisters := by
  intro x s
  have hlen := s.length_regsUpTo x
  exact ⟨decode_wordXNN rfl rfl,
    fun hin => ⟨_, (ExecTo.regDump x hin).exec_eq, fun _ hk => s.read_writeBytes_regsUpTo hk,
      fun _ ha => Memory.read_writeBytes_outside _ _ (by omega)⟩,
    fun hout => (ExecTo.regDumpOutside x hout).exec_eq⟩

/-! ## The data read -/

/-- The register file that REG_LOAD leaves in bounds (spec/44_index_mem.md R165). -/
theorem State.getElem_regsWrite_readBytes (s : State) (x k : Nibble) :
    (regsWrite s.v 0 (s.mem.readBytes s.cfg.font s.i.toNat (x.toNat + 1)))[k.toNat]'k.isLt =
      if k.toNat ≤ x.toNat then s.readMem (s.i.toNat + k.toNat) else s.getV k := by
  have hlen := s.mem.length_readBytes s.cfg.font s.i.toNat (x.toNat + 1)
  rw [getElem_regsWrite]
  by_cases hk : k.toNat ≤ x.toNat
  · rw [dif_pos (by omega), if_pos hk, Memory.getElem_readBytes]
    rfl
  · rw [dif_neg (by omega), if_neg hk]
    rfl

/-- What REG_LOAD does in bounds (R165). -/
theorem regLoad_regsBecome {x : Nibble} {s : State} (hin : s.i.toNat + x.toNat ≤ 0xFFF) :
    RegsBecome (.regLoad x) s (fun k => if k.toNat ≤ x.toNat then s.readMem (s.i.toNat + k.toNat) else s.getV k) :=
  ⟨_, (ExecTo.regLoad x hin).exec_eq, s.getElem_regsWrite_readBytes x⟩

/-- Settles O30: in bounds, the register file of REG_LOAD; out of bounds, only the warning is recorded. -/
theorem regLoadLoadsRegisters : Obligations.RegLoadLoadsRegisters := fun x _ =>
  ⟨decode_wordXNN rfl rfl, regLoad_regsBecome, fun hout => (ExecTo.regLoadOutside x hout).exec_eq⟩

/-- Settles O31: REG_LOAD reads each register from the place where REG_DUMP stored it, since `I`, the memory and the
configuration are the same. -/
theorem loadUndoesDump : Obligations.LoadUndoesDump := by
  intro x s t u hin hdump hmem hi hcfg
  obtain rfl := (exec_to hdump).unique (.regDump x hin)
  obtain ⟨v, hexec, hv⟩ := regLoad_regsBecome (x := x) (s := u) (by rwa [hi])
  have hbyte {k : Nibble} (hk : k.toNat ≤ x.toNat) : u.readMem (u.i.toNat + k.toNat) = s.getV k := by
    rw [State.readMem, hmem, hi, hcfg]
    exact s.read_writeBytes_regsUpTo hk
  exact ⟨v, hexec, fun k => (hv k).trans (ite_congr rfl hbyte fun _ => rfl)⟩

end Sys2Proof.Machine
end

section
/-! Display (O33 to O36): DRAW's picture in the terms of the statements, `State.spriteBit`, and the state it leaves. -/

namespace Sys2Proof.Machine

/-! ## The flag as a bit -/

theorem Flags.ofBool_eq_one_iff {c : Bool} : Flags.ofBool c = 0x01 ↔ c = true := by
  cases c <;> decide

theorem Flags.ofBool_eq_zero_iff {c : Bool} : Flags.ofBool c = 0x00 ↔ c = false := by
  cases c <;> decide

section
variable {s t : State} {x y n : Nibble} {r c : Nat}

/-! ## The sprite -/

/-- The bound of the statements is the one that the next states of DRAW are listed with. -/
theorem State.spriteInside_iff : s.SpriteInside n ↔ n.toNat = 0 ∨ s.i.toNat + n.toNat - 1 ≤ 0xFFF :=
  or_congr_left BitVec.toNat_eq

/-- The sprite's bytes: those at `I` and up. -/
def State.spriteBytes (s : State) (n : Nibble) : List Byte := s.mem.readBytes s.cfg.font s.i.toNat n.toNat

/-- The pixels of the sprite's bytes, from the reduced start on, are the bits of `State.spriteBit`. -/
theorem State.spritePixel_spriteBytes :
    spritePixel (s.spriteBytes n) (s.drawRow y) (s.drawColumn x) r c = s.spriteBit x y n r c := by
  rw [State.spriteBytes, spritePixel, State.spriteBit]
  by_cases hrow : s.drawRow y ≤ r ∧ r < s.drawRow y + n.toNat
  · rw [dif_pos (by simpa using hrow), Memory.getElem_readBytes]
    obtain ⟨hlo, hhi⟩ := hrow
    simp only [State.drawRow] at hlo hhi
    simp only [hlo, hhi, true_and]
    rfl
  · rw [dif_neg (by simpa using hrow), decide_eq_false fun ⟨hlo, hhi, _⟩ => hrow ⟨hlo, hhi⟩, Bool.false_and]

/-- The sprite is the same where its place and its bytes are. -/
theorem State.spriteBit_congr (hx : (t.getV x).toNat % 64 = (s.getV x).toNat % 64)
    (hy : (t.getV y).toNat % 32 = (s.getV y).toNat % 32) (hi : t.i = s.i) (hmem : t.mem = s.mem) (hcfg : t.cfg = s.cfg) :
    t.spriteBit x y n r c = s.spriteBit x y n r c := by
  rw [State.spriteBit, State.spriteBit, hx, hy, hi, State.readMem_congr hmem hcfg]

/-! ## The state after a DRAW in bounds -/

/-- The state a DRAW leaves whose sprite bytes lie in the memory (spec/45_display.md R181). -/
def State.afterDraw (s : State) (x y n : Nibble) : State :=
  { s.setVF (Flags.collision (s.picture x y (s.spriteBytes n)).collision) with
    disp := (s.picture x y (s.spriteBytes n)).disp, redraw := true }

theorem ExecTo.draw_afterDraw (h : s.SpriteInside n) : ExecTo s (.draw x y n) (s.afterDraw x y n) :=
  .draw x y n _ (State.spriteInside_iff.mp h) rfl

theorem State.afterDraw_get (hr : r < 32) (hc : c < 64) :
    (s.afterDraw x y n).disp.get r c = (s.disp.get r c ^^ s.spriteBit x y n r c) := by
  rw [← State.spritePixel_spriteBytes]
  exact Canvas.drawRows_get _ _ _ _ hr hc

/-- A sprite bit falls on a lit cell. -/
def State.Collides (s : State) (x y n : Nibble) : Prop :=
  ∃ r c : Nat, r < 32 ∧ c < 64 ∧ s.spriteBit x y n r c = true ∧ s.disp.get r c = true

theorem State.picture_collision : (s.picture x y (s.spriteBytes n)).collision = true ↔ s.Collides x y n := by
  simp only [State.Collides, ← State.spritePixel_spriteBytes]
  exact (Canvas.drawRows_collision _ _ _ _).trans (or_iff_right Bool.false_ne_true)

theorem State.afterDraw_getV (k : Nibble) (hk : k ≠ 0xF) : (s.afterDraw x y n).getV k = s.getV k :=
  (s.getV_setV 0xF k _).trans (if_neg hk)

theorem State.afterDraw_flag :
    (s.afterDraw x y n).getV 0xF = Flags.ofBool (s.picture x y (s.spriteBytes n)).collision :=
  s.getV_setVF _

theorem State.afterDraw_flag_eq_one_iff : (s.afterDraw x y n).getV 0xF = 0x01 ↔ s.Collides x y n := by
  rw [State.afterDraw_flag, Flags.ofBool_eq_one_iff, State.picture_collision]

theorem State.afterDraw_flag_eq_zero_iff : (s.afterDraw x y n).getV 0xF = 0x00 ↔ ¬ s.Collides x y n := by
  rw [State.afterDraw_flag, Flags.ofBool_eq_zero_iff, ← Bool.not_eq_true, State.picture_collision]

theorem State.not_collides_iff : ¬ s.Collides x y n ↔
    ∀ r c : Nat, r < 32 → c < 64 → s.spriteBit x y n r c = true → s.disp.get r c = false := by
  simp only [State.Collides, not_exists, not_and, Bool.not_eq_true]

/-- The sprite is at its old place with its old bytes after a DRAW that leaves the start coordinates as they were. -/
theorem State.afterDraw_spriteBit (hx : ((s.afterDraw x y n).getV x).toNat % 64 = (s.getV x).toNat % 64)
    (hy : ((s.afterDraw x y n).getV y).toNat % 32 = (s.getV y).toNat % 32) :
    (s.afterDraw x y n).spriteBit x y n r c = s.spriteBit x y n r c :=
  State.spriteBit_congr hx hy rfl rfl rfl

end

/-! ## The obligations -/

/-- Settles O34: the state after a DRAW in bounds, cell by cell and register by register. -/
theorem drawXorsClippedSprite : Obligations.DrawXorsClippedSprite := fun _ _ _ _ hin =>
  ⟨_, _, (ExecTo.draw_afterDraw hin).exec_eq, fun _ _ => State.afterDraw_get, State.afterDraw_flag_eq_one_iff,
    State.afterDraw_flag_eq_zero_iff.trans State.not_collides_iff, State.afterDraw_getV⟩

/-- Settles O36: the second DRAW has the first one's sprite, so every cell is exclusive-ORed twice with one bit; and where
that bit is 1, a cell is lit after the first DRAW exactly if it was dark before it. -/
theorem secondDrawRestoresDisplay : Obligations.SecondDrawRestoresDisplay := by
  intro x y n s t u hin hfirst hx hy hsecond
  obtain rfl := (exec_to hfirst).unique (.draw_afterDraw hin)
  obtain rfl := (exec_to hsecond).unique (.draw_afterDraw (s := s.afterDraw x y n) hin)
  have hbit (r c : Nat) := State.afterDraw_spriteBit (r := r) (c := c) hx hy
  constructor
  · apply Display.ext_get
    intro r c hr hc
    rw [State.afterDraw_get hr hc, hbit, State.afterDraw_get hr hc, Bool.xor_assoc, Bool.xor_self, Bool.xor_false]
  · rw [State.afterDraw_flag_eq_one_iff, State.Collides]
    refine exists_congr fun r => exists_congr fun c => and_congr_right fun hr => and_congr_right fun hc => ?_
    rw [hbit, State.afterDraw_get hr hc]
    refine and_congr_right fun hone => ?_
    rw [hone, Bool.xor_true, Bool.not_eq_true']

/-- Settles O33: the new display is the blank one. -/
theorem clearBlanksDisplay : Obligations.ClearBlanksDisplay := fun _ =>
  ⟨_, ExecTo.clear.exec_eq, fun r c _ _ => Display.get_blank r c⟩

/-- Settles O35: out of bounds, only the warning is recorded. -/
theorem drawOutsideMemoryIsSkipped : Obligations.DrawOutsideMemoryIsSkipped := by
  intro x y n s hout
  rw [State.spriteInside_iff, not_or, Nat.not_le] at hout
  obtain ⟨hn, hpast⟩ := hout
  exact (ExecTo.drawOutside x y n (Nat.pos_of_ne_zero hn) hpast).exec_eq

end Sys2Proof.Machine
end

section
/-! Keyboard (O18, O37, O38): the latch that a key code names, the scan, and the retry of WAIT_KEY. -/

namespace Sys2Proof.Machine

section
variable {s : State}

/-- A code up to `0x0F` reads its key's latch (spec/60_exceptions.md R227). -/
theorem State.keyPressed_eq_latch {b : Byte} {k : Nibble} (h : b.toNat = k.toNat) : s.keyPressed b = s.latch k := by
  rw [Bool.eq_iff_iff, s.keyPressed_eq]
  constructor
  · rintro ⟨j, hj, hdown⟩
    rwa [← BitVec.eq_of_toNat_eq (hj.trans h)]
  · exact fun hdown => ⟨k, h.symm, hdown⟩

/-- A code above `0x0F` names no key (R227). -/
theorem State.keyPressed_eq_false {b : Byte} (h : 0x0F < b.toNat) : s.keyPressed b = false := by
  rw [← Bool.not_eq_true, s.keyPressed_eq]
  rintro ⟨k, hk, -⟩
  have := k.isLt
  omega

/-- With no key down, WAIT_KEY takes `pc` back (spec/46_keyboard.md R192). -/
theorem exec_waitKey_of_no_key (x : Nibble) (h : ∀ k, s.latch k = false) :
    exec (.waitKey x) s = .next { s with pc := s.pc - 2 } :=
  (ExecTo.waitKeyNone x (s.firstKey_eq_none h)).exec_eq

end

/-- Settles O37: the scan finds the key whose predecessors in the scan order are up, or none. -/
theorem waitKeyTakesFirstInScanOrder : Obligations.WaitKeyTakesFirstInScanOrder := by
  intro x s
  refine ⟨decode_wordXNN rfl rfl, fun pre post key hscan hdown hup => ?_, exec_waitKey_of_no_key x⟩
  have hfirst : s.firstKey = some key := s.firstKey_eq_some hscan hdown hup
  rw [BitVec.ofNat_toNat]
  exact (ExecTo.waitKey x key hfirst).regsBecome_of_setV

/-- Settles O38: WAIT_KEY takes back the 2 that ADVANCE added to `pc`, and the latches it reads are those of `s`. -/
theorem waitKeyWithoutKeyIsRetried : Obligations.WaitKeyWithoutKeyIsRetried := by
  intro x s hready hi hup
  have hstep := (stepRunsDecodedInstruction s _ hready hi).trans (exec_waitKey_of_no_key x hup)
  rwa [BitVec.add_sub_cancel] at hstep

/-- Settles O18: the skips are decided by the latch where the code names one, and as for a key that is up where it does
not. -/
theorem skipsOnKey : Obligations.SkipsOnKey := by
  intro x s
  refine ⟨fun k hk => ⟨?_, ?_⟩, fun hcode => ⟨?_, ?_⟩⟩
  · rw [(ExecTo.keyPressed x).exec_eq, State.keyPressed_eq_latch hk, State.skipIf_eq_add]
  · rw [(ExecTo.keyNotPressed x).exec_eq, State.keyPressed_eq_latch hk, State.skipIf_eq_add]
    simp only [Bool.not_eq_true', ← Bool.not_eq_true, ite_not]
  · rw [(ExecTo.keyPressed x).exec_eq, State.keyPressed_eq_false hcode]
    rfl
  · rw [(ExecTo.keyNotPressed x).exec_eq, State.keyPressed_eq_false hcode, State.skipIf_eq_add]
    rfl

end Sys2Proof.Machine
end

section
/-! What an instruction may do to the host's state (O50), and its two kinds of event, errors (O54) and warnings (O56). -/

namespace Sys2Proof.Machine

section
variable {i : Instr} {s t : State}

/-- No instruction writes a key latch (spec/60_exceptions.md R230). -/
theorem ExecTo.key_eq (e : ExecTo s i t) : t.key = s.key := by
  cases e <;> simp

/-- The two instructions that can latch an error, each with its cause; every other next state keeps the latch
(spec/60_exceptions.md R210). -/
theorem ExecTo.err_eq_or_raise (e : ExecTo s i t) :
    t.err = s.err ∨ (i = .ret ∧ s.stack = [] ∧ t = s.raise .emptyStack) ∨
    ∃ nnn, i = .call nnn ∧ s.cfg.stackDepth ≤ s.stack.length ∧ t = s.raise .stackOverflow := by
  cases e with
  | retEmpty h => exact .inr (.inl ⟨rfl, h, rfl⟩)
  | callFull nnn h => exact .inr (.inr ⟨nnn, rfl, h, rfl⟩)
  | _ => exact .inl (by simp)

/-- The event of a skipped instruction is its warning. -/
theorem State.eq_of_warn_history {w w' : Warning} (h : (s.warn w').history = .warning w :: s.history) : w = w' := by
  simpa using h.symm

end

/-- Settles O50. What an instruction does to the fields it does not read is an `UnreadWrite`, which has no part for the rate,
the beep, the marks and the agenda, and can only set REDRAW. -/
theorem instructionsNeverWriteHostState : Obligations.InstructionsNeverWriteHostState := by
  intro i s t h
  have e := exec_to h
  obtain ⟨_, ht, -⟩ := e.exists_unreadWrite_eq
  rw [ht]
  exact ⟨e.key_eq, e.sameConfig.cfg, rfl, rfl, rfl, rfl, rfl, fun hs => (Bool.or_eq_true _ _).mpr (.inr hs)⟩

/-- Settles O54: an instruction that changes the latch is one of the two that raise, and raising changes nothing else. -/
theorem errorsArePrecise : Obligations.ErrorsArePrecise := by
  intro i s t hrun hdepth h herr
  obtain hsame | ⟨rfl, hempty, rfl⟩ | ⟨nnn, rfl, hfull, rfl⟩ := (exec_to h).err_eq_or_raise
  · exact absurd (hsame.trans hrun) herr
  · exact ⟨rfl, .inl ⟨rfl, hempty, rfl⟩⟩
  · exact ⟨rfl, .inr ⟨nnn, rfl, Nat.le_antisymm hdepth hfull, rfl⟩⟩

/-- Settles O56: four next states put out a warning, and each of them is `State.warn`; the others put out an error or
nothing. -/
theorem warningsSkipTheWholeInstruction : Obligations.WarningsSkipTheWholeInstruction := by
  intro i s t w h hw
  cases exec_to h with
  | storeBcdOutside x hout =>
    obtain rfl := State.eq_of_warn_history hw
    exact ⟨rfl, .inl ⟨x, rfl, rfl, hout⟩⟩
  | regDumpOutside x hout =>
    obtain rfl := State.eq_of_warn_history hw
    exact ⟨rfl, .inr (.inl ⟨x, rfl, rfl, hout⟩)⟩
  | regLoadOutside x hout =>
    obtain rfl := State.eq_of_warn_history hw
    exact ⟨rfl, .inr (.inr (.inl ⟨x, rfl, rfl, hout⟩))⟩
  | drawOutside x y n hn hout =>
    obtain rfl := State.eq_of_warn_history hw
    exact ⟨rfl, .inr (.inr (.inr ⟨x, y, n, rfl, rfl, hn, hout⟩))⟩
  | retEmpty | callFull =>
    rw [State.raise_history] at hw
    cases hw
  | _ => exact absurd hw (by simp)

end Sys2Proof.Machine
end

section
/-! Which transitions are refused (O11). -/

namespace Sys2Proof.Machine

section
variable {s : State} {r : Refusal}

/-- A `Step` is never refused: whatever it fetches, it answers a next state (spec/40_flow.md R100 to R103). -/
theorem State.exists_executionStep_eq (s : State) : ∃ t, s.executionStep = .next t := by
  by_cases hrun : s.err = .none
  · rw [s.executionStep_running hrun]
    by_cases hpc : s.pc.toNat ≤ 0xFFE
    · cases hdec : decode s.wordAtPc with
      | ok i =>
        obtain ⟨t, ht, -⟩ := exec_cases i s.markStarted.advance
        exact ⟨t, (State.runOne_of_decode_ok (s := s.markStarted) hpc hdec).trans ht⟩
      | error e => exact ⟨_, State.runOne_of_decode_error (s := s.markStarted) hpc hdec⟩
    · exact ⟨_, State.runOne_outside (s := s.markStarted) (Nat.not_le.mp hpc)⟩
  · exact ⟨s, s.executionStep_halted hrun⟩

/-- Only before `Initialize` is a tick refused (log entry 9). -/
theorem State.tick_eq_refused_iff : s.tick = .refused r ↔ r = .tickBeforeInitialize ∧ s.timersRunning = false := by
  cases h : s.timersRunning <;> simp [State.tick, h, eq_comm]

/-- Only a second `Initialize` is refused (log entry 10). -/
theorem State.initializeTimers_eq_refused_iff :
    s.initializeTimers = .refused r ↔ r = .initializeTwice ∧ s.timersRunning = true := by
  cases h : s.timersRunning <;> simp [State.initializeTimers, h, eq_comm]

/-- Only after the first step is a ROM load refused (log entry 11). -/
theorem State.loadRom_eq_refused_iff {bytes : List Byte} :
    s.loadRom bytes = .refused r ↔ r = .loadRomAfterStep ∧ s.started = true := by
  cases h : s.started <;> simp [State.loadRom, h, eq_comm]

/-- The refusals of all transitions are those of the three operations that can refuse. -/
theorem State.perform_eq_refused_iff {tr : Transition} :
    s.perform tr = .refused r ↔
      (r = .tickBeforeInitialize ∧ tr = .tick ∧ s.timersRunning = false) ∨
      (r = .initializeTwice ∧ tr = .initializeTimers ∧ s.timersRunning = true) ∨
      (r = .loadRomAfterStep ∧ (∃ bytes, tr = .loadRom bytes) ∧ s.started = true) := by
  cases tr with
  | step =>
    obtain ⟨t, ht⟩ := s.exists_executionStep_eq
    simp [State.perform, ht]
  | tick => simp [State.perform, State.tick_eq_refused_iff]
  | initializeTimers => simp [State.perform, State.initializeTimers_eq_refused_iff]
  | loadRom bytes => simp [State.perform, State.loadRom_eq_refused_iff]
  | _ => simp [State.perform]

end

/-- Settles O11: `exec` has a next state in each of its cases, `Fault` has no constructor, and taking a transition off the
agenda touches neither mark that a refusal depends on. -/
theorem onlyMeaninglessHostTransitionsStop : Obligations.OnlyMeaninglessHostTransitionsStop := by
  refine ⟨fun i s => ?_, fun _ => nofun, fun s _ => State.perform_eq_refused_iff (s := s.popAgenda)⟩
  obtain ⟨t, ht, -⟩ := exec_cases i s
  exact ⟨t, ht⟩

end Sys2Proof.Machine
end

section
/-! The timers (O39 to O41): the instructions that move a timer, one tick, and a row of ticks. -/

namespace Sys2Proof.Machine

/-- Settles O39: the words are the encoder's, and each instruction is one write. -/
theorem timerMoves : Obligations.TimerMoves := fun x _ =>
  ⟨decode_wordXNN rfl rfl, decode_wordXNN rfl rfl, decode_wordXNN rfl rfl, (ExecTo.getDelay x).regsBecome_of_setV,
    (ExecTo.setDelay x).exec_eq, (ExecTo.setSound x).exec_eq⟩

/-- From `Initialize` on a tick is not refused (spec/70_reset_and_hazards.md R251). -/
theorem State.tick_eq {s : State} (h : s.timersRunning = true) : s.tick = .next s.ticked :=
  if_pos h

/-- Settles O40: the timers are counted down apart from each other, from their values at the tick's start. -/
theorem tickCountsDown : Obligations.TickCountsDown := by
  intro s hturn hrun
  have hcount (b : Byte) : (countDown b).toNat = if b.toNat > 0 then b.toNat - 1 else 0 := by
    rw [countDown_toNat]
    split <;> omega
  exact ⟨_, _, (step_eq_perform hturn).trans (State.tick_eq (s := s.popAgenda) hrun), hcount s.dt, hcount s.st⟩

/-- The first transition of the agenda is performed with the others still on it. -/
theorem step_cons (s : State) (tr : Transition) (rest : List Transition) :
    step { s with agenda := tr :: rest } = State.perform { s with agenda := rest } tr := rfl

/-- The events of `n` ticks from a sound timer of `k`, newest first (spec/60_exceptions.md R224). -/
def beeps (n k : Nat) : List Output := List.replicate (n - k) (.beep false) ++ List.replicate (min n k) (.beep true)

/-- The oldest event of `n + 1` ticks is that of the first tick, after which `n` ticks follow from the timer counted down. -/
theorem beeps_succ (n k : Nat) : beeps (n + 1) k = beeps n (k - 1) ++ [.beep (decide (0 < k))] := by
  cases k with
  | zero => simp [beeps, List.replicate_succ']
  | succ k => simp [beeps, Nat.add_min_add_right, List.replicate_succ']

/-- Settles O41, by induction on the number of ticks: after the first, the rest of them start from the ticked core. -/
theorem soundTimerBeepsForItsValue : Obligations.SoundTimerBeepsForItsValue := by
  intro n
  induction n with
  | zero => exact fun s _ => ⟨_, rfl, rfl, rfl, by simp, rfl⟩
  | succ n ih =>
    intro s hrun
    obtain ⟨t, ht, hdt, hst, hhist, hsame⟩ := ih s.ticked hrun
    have hfirst : step { s with agenda := List.replicate (n + 1) .tick } =
        .next { s.ticked with agenda := List.replicate n .tick } :=
      (step_cons s .tick _).trans (State.tick_eq hrun)
    rw [State.ticked_dt, countDown_toNat] at hdt
    rw [State.ticked_st, countDown_toNat] at hst
    rw [State.ticked_st, countDown_toNat, State.ticked_history] at hhist
    refine ⟨t, (run_next n hfirst).trans ht, by omega, by omega, ?_, hsame⟩
    calc t.history = beeps n (s.st.toNat - 1) ++ .beep (decide (0 < s.st.toNat)) :: s.history := by
          rw [hhist, beeps, List.append_assoc]
      _ = beeps (n + 1) s.st.toNat ++ s.history := by rw [beeps_succ, List.append_assoc, List.singleton_append]
      _ = _ := by rw [beeps, List.append_assoc]

end Sys2Proof.Machine
end

section
/-! The host's operations (O43, O44, O45, O49). -/

namespace Sys2Proof.Machine

/-- A latch after a key update (spec/60_exceptions.md R226). -/
theorem State.latch_keyUpdate (s : State) (key k : Nibble) (pressed : Bool) :
    (s.keyUpdate key pressed).latch k = if k = key then pressed else s.latch k := by
  have hkey : key.toNat = k.toNat ↔ k = key := by rw [BitVec.toNat_inj, eq_comm]
  simp only [State.latch, State.keyUpdate_key, Vector.getElem_set, hkey]

/-- Settles O43: the update is one write to the latches. -/
theorem keyUpdateSetsOneLatch : Obligations.KeyUpdateSetsOneLatch := fun s key pressed hturn =>
  ⟨_, step_eq_perform hturn, fun k => s.latch_keyUpdate key k pressed⟩

section
variable {s : State}

theorem State.consumeFrame_of_redraw (h : s.redraw = true) :
    s.consumeFrame = { s with redraw := false }.emit (.frame s.disp) :=
  if_pos h

theorem State.consumeFrame_of_not_redraw (h : s.redraw = false) : s.consumeFrame = s :=
  if_neg (Bool.not_eq_true _ ▸ h)

/-- An `Initialize` that is not a second one is not refused (spec/70_reset_and_hazards.md R251). -/
theorem State.initializeTimers_eq (h : s.timersRunning = false) :
    s.initializeTimers = .next { s with timersRunning := true } :=
  if_neg (Bool.not_eq_true _ ▸ h)

end

/-- Settles O44: both cases are those of `State.consumeFrame`. -/
theorem consumeFrameTakesPendingFrame : Obligations.ConsumeFrameTakesPendingFrame := by
  intro s hturn
  have hstep : step s = .next s.popAgenda.consumeFrame := step_eq_perform hturn
  constructor
  · intro hpending
    rw [hstep, State.consumeFrame_of_redraw (s := s.popAgenda) hpending]
    rfl
  · intro hnone
    rw [hstep, State.consumeFrame_of_not_redraw (s := s.popAgenda) hnone]
    rfl

/-- Settles O45: each query is performed by recording its answer. -/
theorem queriesOnlyAnswer : Obligations.QueriesOnlyAnswer := fun _ =>
  ⟨step_eq_perform, step_eq_perform, step_eq_perform, step_eq_perform⟩

/-- Two transitions in a row, each with a next state. -/
theorem run_two {s t u : State} (h : step s = .next t) (h' : step t = .next u) :
    Host.Core.run Sys2Proof.core 2 s = .next u :=
  (run_next 1 h).trans (run_next 0 h')

/-- Settles O49: LoadRom and Initialize write different fields, and neither writes the mark the other is refused on. -/
theorem initializeInEitherBootOrder : Obligations.InitializeInEitherBootOrder := by
  refine ⟨fun s hturn hstill => (step_eq_perform hturn).trans (State.initializeTimers_eq (s := s.popAgenda) hstill),
    fun s rom hfresh hstill => ?_⟩
  have hload (u : State) (rest : List Transition) (h : u.started = false) :=
    (step_cons u (.loadRom rom) rest).trans (State.loadRom_eq (s := { u with agenda := rest }) h rom)
  have hinit (u : State) (rest : List Transition) (h : u.timersRunning = false) :=
    (step_cons u .initializeTimers rest).trans (State.initializeTimers_eq (s := { u with agenda := rest }) h)
  let s' : State := { s with mem := s.mem.writeBytes s.cfg.font progBase (rom.take romMax) }
  exact ⟨{ s' with timersRunning := true, agenda := [] }, run_two (hload s _ hfresh) (hinit s' [] hstill),
    run_two (hinit s _ hstill) (hload { s with timersRunning := true } [] hfresh), rfl⟩

end Sys2Proof.Machine
end
